-- ==== Sys2Proof/Config.lean ====
section
/-!
DEFINITION. Config: the implementation parameters of TICKCORE, each with the value the spec fixes as its default
(R5 of `00_scope.md`, the open parameters of `92_eei_decisions.md`). TICKCORE has no oracle (R26), so no free value stands here.
-/

namespace Sys2Proof.Config

/-- `TICK_WIDTH`: width of BASE, of a tick value and of a deadline (R5). -/
abbrev tickWidth : Nat := 32

/-- `US_WIDTH`: width of the hardware microsecond register US (R5, decision D2). -/
abbrev usWidth : Nat := 32

/-- `DELTA_WIDTH`: width of the DELTA result (R5). -/
abbrev deltaWidth : Nat := 16

/-- `DEPTH_WIDTH`: width of the reentrancy counter DEPTH (R5, decision D3); log entry 8. -/
abbrev depthWidth : Nat := 8

/-- `CMD_WIDTH`: width of a command word (R5, decision D9). -/
abbrev cmdWidth : Nat := 40

/-- `RSP_WIDTH`: width of a response word (R5, decision D10). -/
abbrev rspWidth : Nat := 32

/-- `TICK_SHIFT`: microseconds are shifted right by this to give ticks, one tick being 64 microseconds (R5). -/
def tickShift : Nat := 6

/-- `CHECK_THRESHOLD`: CHECK is true iff the DELTA result is below it (R5). -/
def checkThreshold : Nat := 2

/-- The sentinel `0xFFFF` of DELTA, "far future" (R5, R80). -/
def farFuture : BitVec deltaWidth := BitVec.allOnes deltaWidth

/-- `REBASE_PERIOD_US`: the interval of the periodic rebase interrupt in microseconds (R5, decision D5); log entry 14. -/
def rebasePeriodUs : Nat := 10000000

end Sys2Proof.Config
end

