-- ==== Sys2Proof/Word.lean ====
section
/-!
DEFINITION. Word: the word types of TICKCORE. Every datum is an unsigned bit vector handled whole (R6 of `00_scope.md`, R58 of
`40_common_semantics.md`). Each width is R5's parameter, read from `Config`.
-/

namespace Sys2Proof

/-- A 32-bit tick value (`TICK_WIDTH`): BASE, TARGET, the tick count, a deadline, a difference of two. -/
abbrev Tick := BitVec Config.tickWidth

/-- A 32-bit count of microseconds (`US_WIDTH`): US and ICNT. -/
abbrev Micros := BitVec Config.usWidth

/-- A 16-bit DELTA result (`DELTA_WIDTH`). -/
abbrev Delta := BitVec Config.deltaWidth

/-- The reentrancy counter's type (`DEPTH_WIDTH`, a parameter). -/
abbrev Depth := BitVec Config.depthWidth

/-- A 40-bit command word (`CMD_WIDTH`, R40). -/
abbrev CmdWord := BitVec Config.cmdWidth

/-- A 32-bit response word (`RSP_WIDTH`, R46). -/
abbrev RspWord := BitVec Config.rspWidth

end Sys2Proof
end

