-- ==== Sys2Proof/Syntax.lean ====
section
/-!
DEFINITION. Syntax: the eight instructions of TICKCORE (R2 of `00_scope.md`, R42 of `30_encoding.md`), one constructor for each row of
`spec/opcode_table.json`; the two fields of a command word (format C, R40); and the ways a word is no instruction (R45).
REBASE has no encoding and is no instruction (R52).
-/

namespace Sys2Proof

/-- The instructions, in the order of the opcode map (R42). The only operand form is `target`, a 32-bit unsigned tick value
used as it stands (R41); an instruction without one needs `arg = 0` in its word (R43). -/
inductive Instr where
  /-- INIT, source operation `init()`: start the clock (R70). -/
  | init
  /-- NOW, source operation `now()`: read the current tick count (R74). -/
  | now
  /-- DELTA, source operation `deltaticks(target)`: saturating distance to a deadline (R81, R53). -/
  | delta (target : Tick)
  /-- WAIT, source operation `waitUntil(target)`: block until a deadline is due (R82). -/
  | wait (target : Tick)
  /-- CHECK, source operation `checkTimer(target)`: is the deadline due now or within the next tick (R85). -/
  | check (target : Tick)
  /-- ENTER, source operations `enter()` and `enterCritical()`: begin or nest a critical section (R61). -/
  | enter
  /-- EXIT, source operations `exit()` and `exitCritical()`: end one level of critical section (R63). -/
  | exit
  /-- FAIL, source operation `failed()`: halt the foreground for good (R90). -/
  | fail
  deriving DecidableEq, Repr

/-- The two fields of a command word, format C (R40). -/
structure Fields where
  /-- `op`, bits 39:32: the opcode. -/
  op : BitVec 8
  /-- `arg`, bits 31:0: the operand. -/
  arg : Tick
  deriving DecidableEq, Repr

/-- Why a command word is reserved and no instruction: the two parts of the reserved space (R45). -/
inductive ReservedWord where
  /-- `op` is `0x00` or lies in `0x09` to `0xFF`. -/
  | unassignedOpcode (op : BitVec 8)
  /-- `op` is that of INIT, NOW, ENTER, EXIT or FAIL and `arg` is not zero (R43). -/
  | nonZeroArg (op : BitVec 8) (arg : Tick)
  deriving DecidableEq, Repr

end Sys2Proof
end

