-- ==== Sys2Proof/WellFormed.lean ====
section
/-!
DEFINITION. WellFormed: which contents of the two fields are an instruction's (R42, R43, R45 of `30_encoding.md`). Two checks on a
`Fields` term, an assigned opcode and a zero operand where the opcode takes none; a term of `Instr` needs none, since its
only operand has exactly the range of `arg` (R41).
-/

namespace Sys2Proof

/-- The opcode is one of the opcode map's eight, `0x01` to `0x08` (R42). -/
def Fields.opcodeAssigned (f : Fields) : Bool :=
  decide (0x01 ≤ f.op.toNat ∧ f.op.toNat ≤ 0x08)

/-- The opcode is one of those with an operand: DELTA, WAIT, CHECK (R40). -/
def Fields.takesOperand (f : Fields) : Bool :=
  decide (f.op = 0x03#8 ∨ f.op = 0x04#8 ∨ f.op = 0x05#8)

/-- `arg` is zero wherever the opcode takes no operand (R43). -/
def Fields.argAllowed (f : Fields) : Bool :=
  f.takesOperand || decide (f.arg = 0#Config.tickWidth)

/-- The fields are an instruction's: both checks hold. -/
def Fields.wellFormed (f : Fields) : Bool :=
  f.opcodeAssigned && f.argAllowed

/-- Every instruction term is well-formed: `target` ranges over all of `arg` (R41), and the others have no operand. -/
def Instr.wellFormed : Instr → Bool
  | .init => true
  | .now => true
  | .delta _ => true
  | .wait _ => true
  | .check _ => true
  | .enter => true
  | .exit => true
  | .fail => true

end Sys2Proof
end

