-- ==== Sys2Proof/Decode.lean ====
section
/-!
DEFINITION. Decode: from a 40-bit command word to an instruction or a reserved word, by name, and the encoder beside it
(R40 to R45, R31 of `30_encoding.md` and `20_memory.md`). Decoding is total and reads no state (R44).
-/

namespace Sys2Proof

/-- `op = w[39:32]` (R40). -/
def opField (w : CmdWord) : BitVec 8 := w.extractLsb' Config.tickWidth 8

/-- `arg = w[31:0]`, the operand as it stands (R40, R41). -/
def argField (w : CmdWord) : Tick := w.extractLsb' 0 Config.tickWidth

/-- The two fields of a word (R40). -/
def splitFields (w : CmdWord) : Fields := ⟨opField w, argField w⟩

/-- The word `{op, arg}` (R40; concatenation, R6). -/
def joinFields (f : Fields) : CmdWord := f.op ++ f.arg

/-- Which part of the reserved space fields that are no instruction's lie in (R45). -/
def reservedReason (f : Fields) : ReservedWord :=
  if f.opcodeAssigned then .nonZeroArg f.op f.arg else .unassignedOpcode f.op

/-- The decision list of R44, in its order; the last arm catches every word not named above it. -/
def decodeFields (f : Fields) : Except ReservedWord Instr :=
  if f.op = 0x01#8 ∧ f.arg = 0#Config.tickWidth then .ok .init
  else if f.op = 0x02#8 ∧ f.arg = 0#Config.tickWidth then .ok .now
  else if f.op = 0x03#8 then .ok (.delta f.arg)
  else if f.op = 0x04#8 then .ok (.wait f.arg)
  else if f.op = 0x05#8 then .ok (.check f.arg)
  else if f.op = 0x06#8 ∧ f.arg = 0#Config.tickWidth then .ok .enter
  else if f.op = 0x07#8 ∧ f.arg = 0#Config.tickWidth then .ok .exit
  else if f.op = 0x08#8 ∧ f.arg = 0#Config.tickWidth then .ok .fail
  else .error (reservedReason f)

/-- Decode a command word (R44). -/
def decode (w : CmdWord) : Except ReservedWord Instr := decodeFields (splitFields w)

/-- The fields the opcode map gives an instruction (R42). -/
def encodeFields : Instr → Fields
  | .init => ⟨0x01#8, 0#Config.tickWidth⟩
  | .now => ⟨0x02#8, 0#Config.tickWidth⟩
  | .delta target => ⟨0x03#8, target⟩
  | .wait target => ⟨0x04#8, target⟩
  | .check target => ⟨0x05#8, target⟩
  | .enter => ⟨0x06#8, 0#Config.tickWidth⟩
  | .exit => ⟨0x07#8, 0#Config.tickWidth⟩
  | .fail => ⟨0x08#8, 0#Config.tickWidth⟩

/-- The command word of an instruction (R42). -/
def encode (i : Instr) : CmdWord := joinFields (encodeFields i)

/-- The mnemonic of an instruction (R42, R50). -/
def Instr.mnemonic : Instr → String
  | .init => "INIT"
  | .now => "NOW"
  | .delta _ => "DELTA"
  | .wait _ => "WAIT"
  | .check _ => "CHECK"
  | .enter => "ENTER"
  | .exit => "EXIT"
  | .fail => "FAIL"

/-- A command word written as five bytes, the opcode byte first: the spec's own convention for the written form (R31); the
block itself moves words whole and has no byte order. -/
def bytesOfWord (w : CmdWord) : List (BitVec 8) :=
  [w.extractLsb' 32 8, w.extractLsb' 24 8, w.extractLsb' 16 8, w.extractLsb' 8 8, w.extractLsb' 0 8]

/-- The word of five bytes, opcode byte first (R31). Any other number of bytes is no command word (R40). -/
def wordOfBytes? : List (BitVec 8) → Option CmdWord
  | [b4, b3, b2, b1, b0] => some (b4 ++ b3 ++ b2 ++ b1 ++ b0)
  | _ => none

/-- Decode bytes in the written form of R31: total on any list of bytes; `none` where they are not one word's. -/
def decodeBytes (bs : List (BitVec 8)) : Option (Except ReservedWord Instr) := (wordOfBytes? bs).map decode

/-- The command word whose bits are `w`, numbered as `spec/opcode_table.json` numbers them, with every bit from `nbits` up zero.
The table gives one 40-bit word to a row, so no words need laying out (R31). -/
def tableWord (nbits w : Nat) : CmdWord := BitVec.ofNat Config.cmdWidth (w % 2 ^ nbits)

/-- What the decoder reads from an instruction whose bits are `w` in the opcode table's numbering (`none`: a reserved word, or
more bits than a command word has). -/
def decodeTableWord (nbits w : Nat) : Option Instr :=
  if w % 2 ^ nbits < 2 ^ Config.cmdWidth then (decode (tableWord nbits w)).toOption else none

end Sys2Proof
end

