-- ==== Sys2Proof/Machine/State.lean ====
section
/-!
DEFINITION. Machine/State: the ten registers of TICKCORE (R10 of `10_state.md`), the model's own fields for what stands at the ports
and which agent moves next, the reasons a step can stop, and the state after reset (R24). Plain data throughout.
-/

namespace Sys2Proof.Machine

/-- The foreground sequencer state SEQ (R20). -/
inductive Sequencer where
  /-- A command word is accepted. -/
  | idle
  /-- A WAIT is in progress: no command is accepted and `Poll` steps evaluate the deadline. -/
  | wait
  /-- The fatal halt: no command and no `Poll` until `Reset`. -/
  | halt
  deriving DecidableEq, Repr

/-- The five kinds of step (R8). "Nothing else changes state." -/
inductive StepKind where
  /-- `Reset`, by the host (R120). -/
  | reset
  /-- `Usec`, by the time base (R102). -/
  | usec
  /-- `Irq`, by the timer interrupt controller (R104). -/
  | irq
  /-- `Cmd(w)`, by the foreground requester (R44). -/
  | cmd
  /-- `Poll`, by the foreground sequencer (R83). -/
  | poll
  deriving DecidableEq, Repr

/-- The state of the machine: the ten registers of R10 and three fields of the model's own. -/
structure State where
  /-- BASE: accumulated ticks folded in by rebases (R11). -/
  base : Tick
  /-- US: hardware microseconds elapsed since US was last zero (R12). -/
  us : Micros
  /-- RUN: US is counting (R13). -/
  run : Bool
  /-- DEPTH: the critical-section reentrancy counter (R14). -/
  depth : Depth
  /-- IM: the interrupt mask, true when all maskable interrupts are disabled (R15). -/
  im : Bool
  /-- ARMED: the periodic rebase interrupt is armed (R16). -/
  armed : Bool
  /-- ICNT: microseconds since the periodic facility was armed or last fired (R17). -/
  icnt : Micros
  /-- PEND: a rebase interrupt is pending (R18). -/
  pend : Bool
  /-- TARGET: the deadline latched by a WAIT in progress (R19). -/
  target : Tick
  /-- SEQ: the foreground sequencer state (R20). -/
  seq : Sequencer
  /-- The model's own (log entry 1): the agents that take the next steps, first entry first. The order is open (R106), so every
  claim is about every such list. -/
  sched : List StepKind
  /-- The model's own (log entry 4): the words the requester offers at the command port, first word first (R27, R48). -/
  offered : List CmdWord
  /-- The model's own (log entry 5): the response word the latest step emitted, if it emitted one (R46). -/
  rsp : Option RspWord
  deriving DecidableEq, Repr

/-- Why `Safety.guardedStep` faults. TICKCORE itself raises no exception (R100), so `step` and every meaning never answer a
fault: these are the faults `93_implementation_defined.md` asks of a conservative model (log entry 13). -/
inductive Fault where
  /-- U1: an EXIT that finds `DEPTH = 0`. Raised by `Safety.guardedStep`; safe (the hardware goes on, R131). -/
  | exitAtDepthZero
  /-- U5: an ENTER that finds DEPTH at its greatest value. Raised by `Safety.guardedStep`; safe (the hardware goes on, R132). -/
  | enterAtDepthMax
  /-- U2: a `Usec` step that would take US to its sign bit. Raised by `Safety.guardedStep`; safe (the hardware goes on, R130). -/
  | usLeavesNominalRange
  deriving DecidableEq, Repr

/-- Why a step gives no next state although nothing is at fault. -/
inductive Refusal where
  /-- The instruction has no meaning yet. Raised by `exec` only, and by none of its arms; safe. -/
  | notModelled (mnemonic : String)
  /-- The schedule names a step that is not enabled: "A model has no such step" (V-ENC of `95_test_vectors.md`, R8). Raised by
  `step`; safe (the machine makes no such step; log entry 3). -/
  | stepNotEnabled (kind : StepKind)
  /-- U3: a second INIT between resets. Raised by `Safety.guardedStep`; safe (the hardware goes on, R142). -/
  | secondInit
  /-- U4: NOW, DELTA, CHECK or WAIT before the first INIT. Raised by `Safety.guardedStep`; safe (the hardware goes on, R123). -/
  | timeBeforeInit
  /-- U6: a reserved command word. Raised by `Safety.guardedStep`; safe (the hardware consumes the word, R45). -/
  | reservedWord
  deriving DecidableEq, Repr

/-- What a step or a meaning answers. -/
abbrev Answer := Host.Outcome State Fault Refusal

/-- The machine right after reset: every register at the value of R24's table. The model's own fields are empty (log
entry 6): nothing is scheduled, nothing is offered, no response is being emitted. -/
def State.reset : State where
  base := 0#Config.tickWidth
  us := 0#Config.usWidth
  run := false
  depth := 0#Config.depthWidth
  im := false
  armed := false
  icnt := 0#Config.usWidth
  pend := false
  target := 0#Config.tickWidth
  seq := .idle
  sched := []
  offered := []
  rsp := none

end Sys2Proof.Machine
end

