-- ==== Sys2Proof/Machine/Operands.lean ====
section
/-!
DEFINITION. Machine/Operands: the arithmetic of R54's table (`40_common_semantics.md`) that yields a value, in the notation of R6
(`00_scope.md`). Nothing here sets a flag or traps (R21). The operand of DELTA, WAIT and CHECK needs no assembly: it is
`w[31:0]` as it stands (R41, `argField` in `Decode`).
-/

namespace Sys2Proof.Machine

/-- `sra_32(v, n)`: 32-bit arithmetic shift right (R6). -/
def sra32 (v : BitVec 32) (n : Nat) : BitVec 32 := v.sshiftRight n

/-- `srl_32(v, n)`: 32-bit logical shift right (R6); no step uses it, the shift of US is arithmetic (`90_conflicts.md` C1). -/
def srl32 (v : BitVec 32) (n : Nat) : BitVec 32 := v >>> n

/-- `signed_32(v)`: the two's complement reading (R6). -/
def signed32 (v : BitVec 32) : Int := v.toInt

/-- `trunc_16(v) = v[15:0]` (R6). -/
def trunc16 (v : Tick) : Delta := v.extractLsb' 0 Config.deltaWidth

/-- `zext_32(r)`: a 16-bit result extended with zero bits to a response word (R6, R47). -/
def zext32 (r : Delta) : RspWord := r.setWidth Config.rspWidth

/-- `elapsed_ticks = sra_32(US, 6)`: hardware microseconds as ticks (R71). -/
def elapsedTicks (us : Micros) : Tick := sra32 us Config.tickShift

/-- `target -32 t`: how far a deadline lies ahead of the time `t`, modulo 2^32 (R80). -/
def ticksAhead (target t : Tick) : Tick := target - t

/-- The greatest value of DEPTH, `2^DEPTH_WIDTH - 1` (R14). -/
def depthMax : Depth := BitVec.allOnes Config.depthWidth

/-- `REBASE_PERIOD_US` as a value of ICNT's width (R5, R17). -/
def rebasePeriod : Micros := BitVec.ofNat Config.usWidth Config.rebasePeriodUs

end Sys2Proof.Machine
end

