-- ==== Sys2Proof/Machine/Flags.lean ====
section
/-!
DEFINITION. Machine/Flags: TICKCORE has no arithmetic flags, condition codes or predicate registers (R21 of `10_state.md`), so no flag
is computed anywhere. What this file holds is every test of R54's table, each used inside one step and stored nowhere.
-/

namespace Sys2Proof.Machine

/-- `signed_32(d) <= 0`: the deadline is due now or past (R80). -/
def dueOrPast (d : Tick) : Bool := decide (signed32 d ≤ 0)

/-- `d[31:16] != 0`: the distance needs more than 16 bits (R80). -/
def beyondHorizon (d : Tick) : Bool := 
  decide (d.extractLsb' Config.deltaWidth (Config.tickWidth - Config.deltaWidth) ≠ 0#(Config.tickWidth - Config.deltaWidth))

/-- `r = 0`: the zero test of `Poll` (R83). -/
def deltaIsZero (r : Delta) : Bool := decide (r = 0#Config.deltaWidth)

/-- `r < 2`, unsigned: the test of CHECK (R85). -/
def withinCheckThreshold (r : Delta) : Bool := decide (r.toNat < Config.checkThreshold)

/-- `DEPTH = 0`, on the value just written: the zero test of `exit_body` (R62). -/
def depthIsZero (d : Depth) : Bool := decide (d = 0#Config.depthWidth)

/-- `ICNT +32 1 = REBASE_PERIOD_US`: the interval elapses with this microsecond (R102). -/
def intervalElapses (period icnt : Micros) : Bool := decide (icnt + 1#Config.usWidth = period)

end Sys2Proof.Machine
end

