-- ==== Sys2Proof/Machine/Ops.lean ====
section
/-!
DEFINITION. Machine/Ops: the named bodies the steps are made of (R7 of `00_scope.md`): responding, the arbiter's two bodies (R60, R62),
the time read (R73), the deadline comparison (R80), the rebase (R75); and the three steps that are no command: `Usec` (R102),
taking the one interrupt (R104) with its return (R109), and `Reset` (R120). Each is one indivisible transition (R33).
-/

namespace Sys2Proof.Machine

/-! ### Responses -/

/-- `respond(v)`: the step emits the response word `v` (R46). -/
def respond (v : RspWord) (s : State) : State := { s with rsp := some v }

/-- The step emits no response word (R46, R47). -/
def noResponse (s : State) : State := { s with rsp := none }

/-! ### The arbiter's bodies -/

/-- `enter_body`: mask, then count up modulo 2^DEPTH_WIDTH (R60). -/
def enterBody (s : State) : State := { s with im := true, depth := s.depth + 1#Config.depthWidth }

/-- `exit_body`: count down modulo 2^DEPTH_WIDTH, then unmask if the value just written is 0; otherwise IM is left as it was
(R62). -/
def exitBody (s : State) : State :=
  { s with
    depth := s.depth - 1#Config.depthWidth
    im := if depthIsZero (s.depth - 1#Config.depthWidth) then false else s.im }

/-! ### The time -/

/-- `now_value = BASE +32 elapsed_ticks` (R72). -/
def nowValue (s : State) : Tick := s.base + elapsedTicks s.us

/-- `now_body`: enter, read the time once, exit; the value read and the state left (R73). -/
def nowBody (s : State) : Tick × State :=
  let entered := enterBody s
  (nowValue entered, exitBody entered)

/-- `rebase_body`: enter, fold US into BASE and zero US, exit (R75). `US mod 64` microseconds are discarded. -/
def rebaseBody (s : State) : State :=
  let entered := enterBody s
  exitBody { entered with base := entered.base + elapsedTicks entered.us, us := 0#Config.usWidth }

/-! ### Deadlines -/

/-- The comparison of `delta_body` on the distance `d = target -32 t`: 0 if due or past, the sentinel if it needs more than 16
bits, else the distance (R80). -/
def saturateDistance (d : Tick) : Delta :=
  if dueOrPast d then 0#Config.deltaWidth
  else if beyondHorizon d then Config.farFuture
  else trunc16 d

/-- `delta_body(target)`: read the time interrupt-safely and compare; the 16-bit result and the state left (R80). -/
def deltaBody (target : Tick) (s : State) : Delta × State :=
  let (t, left) := nowBody s
  (saturateDistance (ticksAhead target t), left)

/-! ### The steps that are no command -/

/-- The registers after a `Usec` step, for a facility of the given period (R102, R103). The machine's period is
`rebasePeriod`; the general form is what claims over every period are about (decision D5). -/
def usecBodyWith (period : Micros) (s : State) : State :=
  { s with
    us := if s.run then s.us + 1#Config.usWidth else s.us
    icnt := if s.armed then (if intervalElapses period s.icnt then 0#Config.usWidth else s.icnt + 1#Config.usWidth) else s.icnt
    pend := if s.armed then (if intervalElapses period s.icnt then true else s.pend) else s.pend }

/-- `Usec`: one microsecond of real time has elapsed; no response (R102). -/
def usecBody (s : State) : State := noResponse (usecBodyWith rebasePeriod s)

/-- Taking the one interrupt, `Irq`: PEND is acknowledged by delivery and the handler's whole effect, REBASE, is performed in
the same step (R104, R76). Entry saves nothing; what changes at entry is `enter_body` at the head of the handler (R107), and
the return is `exit_body` at its end (R109). No response. -/
def takeInterrupt (s : State) : State := noResponse (rebaseBody { s with pend := false })

/-- `Poll`: one evaluation of the WAIT in progress; it completes with response 0 if the deadline is due, and otherwise leaves
SEQ at WAIT (R83). DESIGN CHOICE: past the sign bit of US, R83 and R87 are followed where R134's words say otherwise of a target that
then reads as past (log entry 24). -/
def pollBody (s : State) : State :=
  let (r, left) := deltaBody s.target s
  if deltaIsZero r then respond 0#Config.rspWidth { left with seq := .idle } else noResponse left

/-- `Reset`: every register takes its reset value; no response (R120). What the outside holds, the schedule and the words
offered, is no register and stays (log entry 6). -/
def resetBody (s : State) : State :=
  { State.reset with sched := s.sched, offered := s.offered }

end Sys2Proof.Machine
end

