-- ==== Sys2Proof/Machine/Ports.lean ====
section
/-!
DEFINITION. Machine/Ports: the ports of TICKCORE in R27's event view (`10_state.md`), as functions of the state. `rst` and `usec` are
the `Reset` and `Usec` entries of the schedule; `cmd_valid` and `cmd_word` read what the requester offers; the rest are outputs.
-/

namespace Sys2Proof.Machine

/-- `cmd_valid`: the requester offers a command word (R27). -/
def State.cmdValid (s : State) : Bool := !s.offered.isEmpty

/-- `cmd_word`: the word offered, if one is (R27). -/
def State.cmdWord? (s : State) : Option CmdWord := s.offered.head?

/-- `cmd_ready`: 1 iff `SEQ = IDLE` (R27, R48). -/
def State.cmdReady (s : State) : Bool := decide (s.seq = .idle)

/-- `rsp_valid`: the latest step emitted a response word (R27, R46). -/
def State.rspValid (s : State) : Bool := s.rsp.isSome

/-- `rsp_data`: the response value, meaningful only while `rsp_valid` (R27); the spec gives it no value otherwise, and the
model reads `none`. -/
def State.rspData? (s : State) : Option RspWord := s.rsp

/-- `irq_enable = NOT IM`: gates every maskable interrupt source of the platform (R27, R108). -/
def State.irqEnable (s : State) : Bool := !s.im

/-- `halted`: 1 iff `SEQ = HALT` (R27). -/
def State.halted (s : State) : Bool := decide (s.seq = .halt)

/-- The enabling condition of each kind of step (R8): `Reset` and `Usec` always; `Irq` iff `PEND = 1` and `IM = 0` (R104); `Cmd`
iff a word is offered and accepted, `cmd_valid` and `cmd_ready` both 1 (R27, R44); `Poll` iff `SEQ = WAIT` (R83). -/
def enabled (k : StepKind) (s : State) : Bool :=
  match k with
  | .reset => true
  | .usec => true
  | .irq => s.pend && !s.im
  | .cmd => s.cmdValid && s.cmdReady
  | .poll => decide (s.seq = .wait)

end Sys2Proof.Machine
end

