-- ==== Sys2Proof/Machine/Arbiter.lean ====
section
/-!
DEFINITION. Machine/Arbiter: the critical section arbiter's instructions, ENTER and EXIT (R61, R63 of `41_arbiter.md`).
-/

namespace Sys2Proof.Machine

/-- ENTER: `call enter_body`, `respond(0)` (R61). -/
def execEnter (s : State) : Answer := .next (respond 0#Config.rspWidth (enterBody s))

/-- EXIT: `call exit_body`, `respond(0)` (R63). An EXIT without a matching ENTER is not detected: DEPTH wraps (R131). -/
def execExit (s : State) : Answer := .next (respond 0#Config.rspWidth (exitBody s))

end Sys2Proof.Machine
end

