-- ==== Sys2Proof/Machine/Deadline.lean ====
section
/-!
DEFINITION. Machine/Deadline: the deadline logic's instructions, DELTA, WAIT and CHECK (R81, R82, R85 of `43_deadline.md`). The `Poll`
step of a WAIT is `pollBody` in `Machine/Ops` (R83).
-/

namespace Sys2Proof.Machine

/-- DELTA: `r <- call delta_body(target)`, `respond(zext_32(r))` (R81). -/
def execDelta (target : Tick) (s : State) : Answer :=
  let (r, left) := deltaBody target s
  .next (respond (zext32 r) left)

/-- WAIT, the `Cmd` step: latch the deadline and start waiting; no response yet, and no evaluation (R82). -/
def execWait (target : Tick) (s : State) : Answer :=
  .next (noResponse { s with target := target, seq := .wait })

/-- CHECK: `r <- call delta_body(target)`, respond 1 if `r < 2`, else 0 (R85). -/
def execCheck (target : Tick) (s : State) : Answer :=
  let (r, left) := deltaBody target s
  .next (respond (if withinCheckThreshold r then 1#Config.rspWidth else 0#Config.rspWidth) left)

end Sys2Proof.Machine
end

