-- ==== Sys2Proof/Machine/FatalHalt.lean ====
section
/-!
DEFINITION. Machine/FatalHalt: the fatal halt's instruction, FAIL (R90 of `44_fatal_halt.md`).
-/

namespace Sys2Proof.Machine

/-- FAIL: `SEQ <- HALT`, no response, nothing saved and nothing cleared (R90). -/
def execFail (s : State) : Answer := .next (noResponse { s with seq := .halt })

end Sys2Proof.Machine
end

