-- ==== Sys2Proof/Machine/TickCounter.lean ====
section
/-!
DEFINITION. Machine/TickCounter: the monotonic tick counter's instructions, INIT and NOW (R70, R74 of `42_tick_counter.md`). REBASE,
the counter's third operation, is no instruction: `takeInterrupt` in `Machine/Ops` performs it (R76).
-/

namespace Sys2Proof.Machine

/-- INIT: zero BASE, start US, arm the periodic facility and restart its interval, `respond(0)` (R70). US, DEPTH, IM, PEND,
TARGET and SEQ are not written. -/
def execInit (s : State) : Answer :=
  .next (respond 0#Config.rspWidth
    { s with base := 0#Config.tickWidth, run := true, armed := true, icnt := 0#Config.usWidth })

/-- NOW: `t <- call now_body`, `respond(t)` (R74). -/
def execNow (s : State) : Answer :=
  let (t, left) := nowBody s
  .next (respond t left)

end Sys2Proof.Machine
end

