-- ==== Sys2Proof/Machine/Dispatch.lean ====
section
/-! DEFINITION. Machine/Dispatch: one arm for each instruction, each a direct call of its meaning. -/

namespace Sys2Proof.Machine

def exec (i : Instr) (s : State) : Host.Outcome State Fault Refusal :=
  match i with
  | .init => Sys2Proof.Machine.execInit s
  | .now => Sys2Proof.Machine.execNow s
  | .delta target => Sys2Proof.Machine.execDelta target s
  | .wait target => Sys2Proof.Machine.execWait target s
  | .check target => Sys2Proof.Machine.execCheck target s
  | .enter => Sys2Proof.Machine.execEnter s
  | .exit => Sys2Proof.Machine.execExit s
  | .fail => Sys2Proof.Machine.execFail s

end Sys2Proof.Machine
end

