-- ==== Sys2Proof/Machine/Agents.lean ====
section
/-!
DEFINITION. Machine/Agents: the machine's steps put together: which agent moves next, the `Cmd` step (R44 of `30_encoding.md`), and one
step of the machine, which performs the next agent's step if it is enabled (R8 of `00_scope.md`). `Machine/Step` only calls this file.
-/

namespace Sys2Proof.Machine

/-- The kind of the next step: the schedule's first entry (log entry 1). Where the schedule is used up time passes, since
`Usec` is the one step always enabled and never asked for (R102, R113; log entry 2). -/
def nextKind (s : State) : StepKind :=
  match s.sched with
  | [] => .usec
  | k :: _ => k

/-- The schedule's first entry is taken. -/
def takeTurn (s : State) : State := { s with sched := s.sched.tail }

/-- The offered word is consumed (R44, R48). -/
def consumeWord (s : State) : State := { s with offered := s.offered.tail }

/-- What the `Cmd` step does once the word is consumed: run the decoded instruction, or nothing at all on a reserved word, which
changes no register and emits no response (R44, R45). -/
def execWord (w : CmdWord) (s : State) : Answer :=
  match decode w with
  | .ok i => exec i s
  | .error _ => .next (noResponse s)

/-- The `Cmd` step on the word offered (R44). With no word offered the machine has no such step. -/
def performCmd (s : State) : Answer :=
  match s.offered with
  | [] => .refused (.stepNotEnabled .cmd)
  | w :: _ => execWord w (consumeWord s)

/-- The step of each kind, where it is enabled (R8). -/
def perform (k : StepKind) (s : State) : Answer :=
  match k with
  | .reset => .next (resetBody s)
  | .usec => .next (usecBody s)
  | .irq => .next (takeInterrupt s)
  | .cmd => performCmd s
  | .poll => .next (pollBody s)

/-- One step: the next agent takes its turn. A step that is not enabled is no step of the machine (R8; log entry 3). -/
def advance (s : State) : Answer :=
  if enabled (nextKind s) s then perform (nextKind s) (takeTurn s)
  else .refused (.stepNotEnabled (nextKind s))

/-- The state in which the very next step is the `Cmd` step on the word with bits `w` (log entry 7): the word is offered first,
the requester moves next, and the sequencer accepts a command. -/
def placeCommand (s : State) (nbits w : Nat) : State :=
  { s with
    seq := .idle
    sched := .cmd :: s.sched
    offered := tableWord nbits w :: s.offered }

end Sys2Proof.Machine
end

