-- ==== Sys2Proof/Machine/Step.lean ====
section
/-! DEFINITION. Machine/Step: one step of the machine, and the placing of one instruction for the next step. -/

namespace Sys2Proof.Machine

/-- One step of TICKCORE: the next agent of the schedule takes its turn (R8). -/
def step (s : State) : Host.Outcome State Fault Refusal := advance s

/-- `s` with the instruction whose bits are `w` placed so that the very next step runs it (log entry 7). -/
def State.withFetchWord (s : State) (nbits w : Nat) : State := placeCommand s nbits w

end Sys2Proof.Machine
end

