-- ==== Sys2Proof/Machine/Script.lean ====
section
/-!
DEFINITION. Machine/Script: the textual form of commands and of the other agents' directives (R50 of `30_encoding.md`), the aliases
(R51), and how a script becomes a schedule and the words a requester offers. What R50 leaves to a reader of text is log entry 18.
-/

namespace Sys2Proof.Machine

/-- One line of a script: a command, or a directive for another agent (R50). -/
inductive ScriptLine where
  /-- A command of the requester. -/
  | command (i : Instr)
  /-- `usec N`: N `Usec` steps. -/
  | usec (n : Nat)
  /-- `irq`: one `Irq` step. -/
  | irq
  /-- `poll`: one `Poll` step. -/
  | poll
  /-- `reset`: one `Reset` step. -/
  | reset
  deriving DecidableEq, Repr

/-- The instruction of a name and its operand: the mnemonics (R50) and the source's names as aliases (R51). DELTA, WAIT and
CHECK take exactly one operand, the others none. -/
def instrNamed (name : String) (operand : Option Tick) : Option Instr :=
  match operand with
  | none =>
    if name = "INIT" ∨ name = "init" then some .init
    else if name = "NOW" ∨ name = "now" then some .now
    else if name = "ENTER" ∨ name = "enter" ∨ name = "enterCritical" then some .enter
    else if name = "EXIT" ∨ name = "exit" ∨ name = "exitCritical" then some .exit
    else if name = "FAIL" ∨ name = "failed" then some .fail
    else none
  | some t =>
    if name = "DELTA" ∨ name = "deltaticks" then some (.delta t)
    else if name = "WAIT" ∨ name = "waitUntil" then some (.wait t)
    else if name = "CHECK" ∨ name = "checkTimer" then some (.check t)
    else none

/-- The value of a decimal digit. -/
def decimalDigit? (c : Char) : Option Nat :=
  if '0'.toNat ≤ c.toNat ∧ c.toNat ≤ '9'.toNat then some (c.toNat - '0'.toNat) else none

/-- The value of a hexadecimal digit, in either case. -/
def hexDigit? (c : Char) : Option Nat :=
  if 'A'.toNat ≤ c.toNat ∧ c.toNat ≤ 'F'.toNat then some (c.toNat - 'A'.toNat + 10)
  else if 'a'.toNat ≤ c.toNat ∧ c.toNat ≤ 'f'.toNat then some (c.toNat - 'a'.toNat + 10)
  else decimalDigit? c

/-- The number a run of digits spells, most significant digit first, after `acc`. -/
def digitsFrom (digit? : Char → Option Nat) (radix : Nat) : Nat → List Char → Option Nat
  | acc, [] => some acc
  | acc, c :: cs =>
    match digit? c with
    | some v => digitsFrom digit? radix (acc * radix + v) cs
    | none => none

/-- An unsigned number in decimal or `0x` hexadecimal (R50). -/
def numeral? : List Char → Option Nat
  | '0' :: 'x' :: c :: cs => digitsFrom hexDigit? 16 0 (c :: cs)
  | c :: cs => digitsFrom decimalDigit? 10 0 (c :: cs)
  | [] => none

/-- An operand: a number of 32 bits (R50). -/
def operand? (cs : List Char) : Option Tick :=
  match numeral? cs with
  | some n => if n < 2 ^ Config.tickWidth then some (BitVec.ofNat Config.tickWidth n) else none
  | none => none

/-- The maximal runs of characters that are no separator; `word` is the run read so far, last character first. -/
def splitRuns (isSep : Char → Bool) : List Char → List Char → List (List Char)
  | word, [] => if word.isEmpty then [] else [word.reverse]
  | word, c :: cs =>
    if isSep c then
      (if word.isEmpty then splitRuns isSep [] cs else word.reverse :: splitRuns isSep [] cs)
    else splitRuns isSep (c :: word) cs

/-- The line of a script that a line's tokens spell (R50). -/
def lineOfTokens : List (List Char) → Option ScriptLine
  | [name] =>
    if String.ofList name = "irq" then some .irq
    else if String.ofList name = "poll" then some .poll
    else if String.ofList name = "reset" then some .reset
    else (instrNamed (String.ofList name) none).map .command
  | [name, arg] =>
    if String.ofList name = "usec" then (numeral? arg).map .usec
    else
      match operand? arg with
      | some t => (instrNamed (String.ofList name) (some t)).map .command
      | none => none
  | _ => none

/-- A line's tokens: a comment starts with `;` and is dropped (R50). -/
def lineTokens (line : List Char) : List (List Char) :=
  splitRuns (fun c => c == ' ' || c == '\t' || c == '\r') [] (line.takeWhile (· ≠ ';'))

/-- A script, one command or directive to a line; a line with nothing but a comment says nothing. `none`: some line is neither. -/
def parseScript (text : String) : Option (List ScriptLine) :=
  ((splitRuns (· == '\n') [] text.toList).map lineTokens |>.filter (!·.isEmpty)).mapM lineOfTokens

/-- The steps a line asks for. -/
def ScriptLine.kinds : ScriptLine → List StepKind
  | .command _ => [.cmd]
  | .usec n => List.replicate n .usec
  | .irq => [.irq]
  | .poll => [.poll]
  | .reset => [.reset]

/-- The words a line makes the requester offer. -/
def ScriptLine.words : ScriptLine → List CmdWord
  | .command i => [encode i]
  | .usec _ => []
  | .irq => []
  | .poll => []
  | .reset => []

/-- The state in which the next steps are those of the script. -/
def loadScript (lines : List ScriptLine) (s : State) : State :=
  { s with
    sched := lines.flatMap ScriptLine.kinds ++ s.sched
    offered := lines.flatMap ScriptLine.words ++ s.offered }

end Sys2Proof.Machine
end

