-- ==== Sys2Proof/Machine/Fairness.lean ====
section
/-!
DEFINITION. Machine/Fairness: runs without end, and the assumptions of R113 (`60_exceptions.md`) about which enabled step happens when.
They are premises of liveness claims; no step and no safety claim uses them (log entry 20).
-/

namespace Sys2Proof.Machine

/-- `s'` is `t` except for what the outside decides: which agents move next and which words are offered (R106, R113 (d), (e)). -/
def sameBlock (t s' : State) : Prop := s' = { t with sched := s'.sched, offered := s'.offered }

/-- A run without end: every state goes on by an enabled step, and the outside chooses anew, before each step, the agents that
move and the words it offers (R8). So a WAIT can be polled without end, and any number of microseconds can pass between any two
steps. -/
def Execution (x : Nat → State) : Prop := ∀ n, ∃ t, step (x n) = .next t ∧ sameBlock t (x (n + 1))

/-- A property that holds at some point from every point on: it recurs without end. -/
def Recurs (p : Nat → Prop) : Prop := ∀ n, ∃ m, n ≤ m ∧ p m

/-- A property that holds from a point on. -/
def PersistsFrom (n : Nat) (p : Nat → Prop) : Prop := ∀ m, n ≤ m → p m

/-- The fairness assumptions (R113). (d) and (e) assume nothing, so no field stands for them. -/
structure Fair (x : Nat → State) : Prop where
  /-- (a) `Usec` steps occur without end. -/
  time : Recurs fun n => nextKind (x n) = .usec
  /-- (b) If `SEQ = WAIT` persists, `Poll` steps occur without end. -/
  poll : ∀ n, PersistsFrom n (fun m => (x m).seq = .wait) → Recurs fun m => nextKind (x m) = .poll
  /-- (c) If `PEND = 1` and `IM = 0` persist, an `Irq` step eventually occurs. -/
  irq : ∀ n, PersistsFrom n (fun m => (x m).pend = true ∧ (x m).im = false) → ∃ m, n ≤ m ∧ nextKind (x m) = .irq

end Sys2Proof.Machine
end

