-- ==== Sys2Proof/Safety.lean ====
section
/-!
DEFINITION. Safety: what claims about runs are stated in. The invariants of R23 (`10_state.md`) as predicates on a state; which
instruction the next step runs; and the conservative machine of `93_implementation_defined.md`, which makes the steps `step`
makes but stops at the hazards U1 to U6 that the source does not stand behind (log entry 13).
-/

namespace Sys2Proof.Safety

open Sys2Proof.Machine

/-! ### The next step -/

/-- The word the next step consumes, if the next step is an enabled `Cmd` step. -/
def nextWord? (s : State) : Option CmdWord :=
  if nextKind s = .cmd ∧ s.seq = .idle then s.offered.head? else none

/-- The instruction the next step runs, if it runs one. -/
def nextInstr? (s : State) : Option Instr :=
  match nextWord? s with
  | none => none
  | some w => (decode w).toOption

/-! ### Invariants -/

/-- Invariants 5 and 6 of R23, with what the machine's two start bits also keep: RUN and ARMED are set together by INIT and
cleared together by `Reset`, and before INIT the clock stands at 0 (R70, R123). -/
structure TimerInv (s : State) : Prop where
  icnt_lt : s.icnt.toNat < Config.rebasePeriodUs
  armed_of_pend : s.pend = true → s.armed = true
  armed_eq_run : s.armed = s.run
  stopped_at_zero : s.run = false → s.base = 0#Config.tickWidth ∧ s.us = 0#Config.usWidth

/-- Invariant 1 of R23: `IM = 1` iff `DEPTH > 0`. It holds under balanced use only. -/
def MaskIffDepth (s : State) : Prop := s.im = true ↔ s.depth ≠ 0#Config.depthWidth

/-- US is in the nominal range (R72). -/
def UsNominal (s : State) : Prop := s.us.toNat < 2 ^ 31

/-- Interrupts are delivered within `l` microseconds of their raise (`IRQ_LATENCY_US`, decision D18): a request that is pending was
raised no longer ago, and US holds no more than the microseconds since the latest raise, and one period more while that raise
is undelivered. -/
def UsWithinLatency (l : Nat) (s : State) : Prop :=
  s.us.toNat ≤ s.icnt.toNat + (if s.pend then Config.rebasePeriodUs else 0) ∧ (s.pend = true → s.icnt.toNat ≤ l)

/-- `64 * BASE + US` accounts for `e` elapsed microseconds but for what `k` rebases discarded, at most 63 each, none of it
counted twice (R77 item 3, R137). -/
def TimeAccount (e k : Nat) (s : State) : Prop :=
  64 * s.base.toNat + s.us.toNat ≤ e ∧ e ≤ 64 * s.base.toNat + s.us.toNat + 63 * k

/-! ### Contract -/

/-- Balanced use excludes the instruction in this state (R23): an EXIT at `DEPTH = 0` or an ENTER at the greatest DEPTH. -/
def unbalancedInstr (i : Instr) (s : State) : Bool :=
  match i with
  | .init => false
  | .now => false
  | .delta _ => false
  | .wait _ => false
  | .check _ => false
  | .enter => decide (s.depth = depthMax)
  | .exit => decide (s.depth = 0#Config.depthWidth)
  | .fail => false

/-- Balanced use excludes the next step (R23). -/
def unbalancedNext (s : State) : Bool :=
  match nextInstr? s with
  | none => false
  | some i => unbalancedInstr i s

/-- Where the conservative machine stops on an instruction: U1, U3, U4, U5. -/
def instrStop (i : Instr) (s : State) : Option Answer :=
  match i with
  | .init => if s.run then some (.refused .secondInit) else none
  | .now => if s.run then none else some (.refused .timeBeforeInit)
  | .delta _ => if s.run then none else some (.refused .timeBeforeInit)
  | .wait _ => if s.run then none else some (.refused .timeBeforeInit)
  | .check _ => if s.run then none else some (.refused .timeBeforeInit)
  | .enter => if s.depth = depthMax then some (.fault .enterAtDepthMax) else none
  | .exit => if s.depth = 0#Config.depthWidth then some (.fault .exitAtDepthZero) else none
  | .fail => none

/-- Where the conservative machine stops on a command word: U6 on a reserved word, else as its instruction says. -/
def wordStop (w : CmdWord) (s : State) : Option Answer :=
  match decode w with
  | .error _ => some (.refused .reservedWord)
  | .ok i => instrStop i s

/-- Where the conservative machine stops on a `Usec` step: U2, US about to reach its sign bit. -/
def usecStop (s : State) : Option Answer :=
  if s.run ∧ 2 ^ 31 ≤ s.us.toNat + 1 then some (.fault .usLeavesNominalRange) else none

/-- The hazard the next step would run into, as the answer of the conservative machine. -/
def contractStop (s : State) : Option Answer :=
  match nextKind s with
  | .reset => none
  | .usec => usecStop s
  | .irq => none
  | .cmd =>
    match nextWord? s with
    | none => none
    | some w => wordStop w s
  | .poll => none

/-- The conservative machine: `step`, except that it stops at the hazards U1 to U6. -/
def guardedStep (s : State) : Answer :=
  match contractStop s with
  | some stopped => stopped
  | none => step s

/-- The conservative machine behind the host's interface, for runs of it. -/
def guardedCore : Host.Core :=
  { State := State, Fault := Fault, Refusal := Refusal, step := guardedStep, reset := State.reset }

/-- The requester has been served: every word it offered is consumed and the foreground is idle. HALT is no such end
(R92, U9; log entry 16). -/
def completed (s : State) : Bool := decide (s.seq = .idle ∧ s.offered = [])

end Sys2Proof.Safety
end

