-- ==== Sys2Proof/Certificates/Slice0/Obligations.lean ====
section
/-!
DEFINITION. Certificates/Slice0/Obligations: what is to be proved of the model, each from the spec's rules. A next state written as one
record update of `s` is also the instruction's frame: every field it does not name is as before. DEPTH is counted in
`BitVec Config.depthWidth`, so a claim about it holds modulo 2^DEPTH_WIDTH, whatever that width (R60, decision D3).
-/

open Sys2Proof Sys2Proof.Machine Sys2Proof.Safety

/-! ### Encoding -/

/-- R49: the worked encodings, one for each instruction, and the four reserved words, written out as the spec writes them, decode to what
it says. -/
def Obligations.WorkedEncodingsDecode : Prop :=
  decode 0x0100000000#40 = .ok .init ∧ decode 0x0200000000#40 = .ok .now ∧
  decode 0x0300011170#40 = .ok (.delta 0x00011170#32) ∧ decode 0x0400000064#40 = .ok (.wait 100#32) ∧
  decode 0x05FFFFFFFF#40 = .ok (.check 0xFFFFFFFF#32) ∧ decode 0x0600000000#40 = .ok .enter ∧
  decode 0x0700000000#40 = .ok .exit ∧ decode 0x0800000000#40 = .ok .fail ∧
  decode 0x0000000000#40 = .error (.unassignedOpcode 0x00#8) ∧
  decode 0x0900000000#40 = .error (.unassignedOpcode 0x09#8) ∧
  decode 0xFFFFFFFFFF#40 = .error (.unassignedOpcode 0xFF#8) ∧
  decode 0x0200000001#40 = .error (.nonZeroArg 0x02#8 1#32)

/-- R42: a word selects an opcode map row iff `(w AND mask) = match`, with the match and mask of each row as the map prints them,
and then it is that row's instruction, its operand (R41) the word's bits 31:0; no word selects two rows. -/
def Obligations.OpcodeMapSelectsInstruction : Prop :=
  (∀ w : CmdWord,
    (w &&& 0xFFFFFFFFFF#40 = 0x0100000000#40 ↔ decode w = .ok .init) ∧
    (w &&& 0xFFFFFFFFFF#40 = 0x0200000000#40 ↔ decode w = .ok .now) ∧
    (w &&& 0xFF00000000#40 = 0x0300000000#40 ↔ decode w = .ok (.delta (w.extractLsb' 0 32))) ∧
    (w &&& 0xFF00000000#40 = 0x0400000000#40 ↔ decode w = .ok (.wait (w.extractLsb' 0 32))) ∧
    (w &&& 0xFF00000000#40 = 0x0500000000#40 ↔ decode w = .ok (.check (w.extractLsb' 0 32))) ∧
    (w &&& 0xFFFFFFFFFF#40 = 0x0600000000#40 ↔ decode w = .ok .enter) ∧
    (w &&& 0xFFFFFFFFFF#40 = 0x0700000000#40 ↔ decode w = .ok .exit) ∧
    (w &&& 0xFFFFFFFFFF#40 = 0x0800000000#40 ↔ decode w = .ok .fail)) ∧
  ([(0x0100000000#40, 0xFFFFFFFFFF#40), (0x0200000000#40, 0xFFFFFFFFFF#40), (0x0300000000#40, 0xFF00000000#40),
    (0x0400000000#40, 0xFF00000000#40), (0x0500000000#40, 0xFF00000000#40), (0x0600000000#40, 0xFFFFFFFFFF#40),
    (0x0700000000#40, 0xFFFFFFFFFF#40), (0x0800000000#40, 0xFFFFFFFFFF#40)].Pairwise
      fun a b => ∀ w : CmdWord, ¬ (w &&& a.2 = a.1 ∧ w &&& b.2 = b.1))

/-- Decode and encode agree for every instruction with every operand, in both directions: a word decodes to an instruction iff
it is that instruction's word. No bit of an encoding is dropped, and no instruction has two words. -/
def Obligations.DecodeIsTheInverseOfEncode : Prop :=
  ∀ (w : CmdWord) (i : Instr), decode w = .ok i ↔ w = encode i

/-- R45, R43: exactly the words of the reserved space are no instruction. The `Cmd` step on one consumes it, changes no register
and emits no response; the conservative machine refuses it. -/
def Obligations.ReservedWordsAreConsumedWithoutEffect : Prop :=
  (∀ w : CmdWord, (∃ r, decode w = .error r) ↔
    (opField w = 0x00#8 ∨ 0x09 ≤ (opField w).toNat ∨
      (opField w ∈ [0x01#8, 0x02#8, 0x06#8, 0x07#8, 0x08#8] ∧ argField w ≠ 0#32))) ∧
  (∀ (s : State) (w : CmdWord) (ws : List CmdWord) (r : ReservedWord), nextKind s = .cmd → s.seq = .idle →
    s.offered = w :: ws → decode w = .error r →
    step s = .next { s with sched := s.sched.tail, offered := ws, rsp := none } ∧
    guardedStep s = .refused .reservedWord)

/-- The written form of a word, opcode byte first (R31), reads back as the word; no other number of bytes is a command word. -/
def Obligations.WrittenBytesReadBackAsTheWord : Prop :=
  (∀ w : CmdWord, wordOfBytes? (bytesOfWord w) = some w ∧ (bytesOfWord w).head? = some (opField w)) ∧
  (∀ bs : List (BitVec 8), bs.length ≠ 5 → wordOfBytes? bs = none)

/-- R51: each alias assembles to the instruction on its right, with the same operand, as the mnemonic does. -/
def Obligations.AliasesAssembleToTheirInstruction : Prop :=
  (∀ t : Tick,
    instrNamed "deltaticks" (some t) = some (.delta t) ∧ instrNamed "DELTA" (some t) = some (.delta t) ∧
    instrNamed "waitUntil" (some t) = some (.wait t) ∧ instrNamed "WAIT" (some t) = some (.wait t) ∧
    instrNamed "checkTimer" (some t) = some (.check t) ∧ instrNamed "CHECK" (some t) = some (.check t)) ∧
  instrNamed "init" none = some .init ∧ instrNamed "INIT" none = some .init ∧
  instrNamed "now" none = some .now ∧ instrNamed "NOW" none = some .now ∧
  instrNamed "enter" none = some .enter ∧ instrNamed "enterCritical" none = some .enter ∧
  instrNamed "ENTER" none = some .enter ∧ instrNamed "exit" none = some .exit ∧
  instrNamed "exitCritical" none = some .exit ∧ instrNamed "EXIT" none = some .exit ∧
  instrNamed "failed" none = some .fail ∧ instrNamed "FAIL" none = some .fail

/-! ### Steps -/

/-- A `Cmd` step runs the decoded instruction: with a word offered and SEQ at IDLE, the step is `exec` of the instruction with the
schedule's entry and the word consumed. And an instruction placed by `withFetchWord` is what the very next step runs; how it is placed
(the word first, `cmd` scheduled, SEQ at IDLE) is the model's choice, no rule of the spec (log entry 7). -/
def Obligations.StepRunsTheDecodedInstruction : Prop :=
  (∀ (s : State) (w : CmdWord) (ws : List CmdWord) (i : Instr), nextKind s = .cmd → s.seq = .idle →
    s.offered = w :: ws → decode w = .ok i →
    step s = exec i { s with sched := s.sched.tail, offered := ws }) ∧
  (∀ (s : State) (nbits w : Nat) (i : Instr), decodeTableWord nbits w = some i →
    step (s.withFetchWord nbits w) = exec i { s with seq := .idle })

/-- R8: a step happens iff its agent is enabled, under exactly the conditions of R8's table (a word being offered at the port
belongs to `Cmd(w)`, R27); the machine has no other step. R100: no step and no instruction ever faults. -/
def Obligations.StepHappensExactlyWhereEnabled : Prop :=
  (∀ s : State,
    (nextKind s = .reset → ∃ t, step s = .next t) ∧
    (nextKind s = .usec → ∃ t, step s = .next t) ∧
    (nextKind s = .irq → ((∃ t, step s = .next t) ↔ s.pend = true ∧ s.im = false)) ∧
    (nextKind s = .cmd → ((∃ t, step s = .next t) ↔ s.seq = .idle ∧ s.offered ≠ [])) ∧
    (nextKind s = .poll → ((∃ t, step s = .next t) ↔ s.seq = .wait)) ∧
    ((¬ ∃ t, step s = .next t) → step s = .refused (.stepNotEnabled (nextKind s)))) ∧
  (∀ (i : Instr) (s : State), ∃ t, exec i s = .next t)

/-- R48: a word is consumed only where SEQ is IDLE. Offered otherwise it is not consumed and has no effect: the machine has no
`Cmd` step, and every step it has leaves what is offered as it was; that a `Reset` leaves it too is the model's choice, no rule of the
spec (log entry 6). -/
def Obligations.OfferedWordWaitsUntilIdle : Prop :=
  (∀ s : State, s.cmdReady = true ↔ s.seq = .idle) ∧
  (∀ s : State, nextKind s = .cmd → s.seq ≠ .idle → step s = .refused (.stepNotEnabled .cmd)) ∧
  (∀ s t : State, step s = .next t →
    t.offered = s.offered ∨ (nextKind s = .cmd ∧ s.seq = .idle ∧ t.offered = s.offered.tail))

/-- R55: the complete transition table of SEQ; no other pair occurs. -/
def Obligations.SequencerFollowsItsTransitionTable : Prop :=
  ∀ s t : State, step s = .next t →
    (nextKind s = .reset ∧ t.seq = .idle) ∨
    (nextKind s = .usec ∧ t.seq = s.seq) ∨
    (nextKind s = .irq ∧ t.seq = s.seq) ∨
    (nextKind s = .cmd ∧ s.seq = .idle ∧
      ((nextInstr? s = none ∧ t.seq = .idle) ∨
       (∃ i, nextInstr? s = some i ∧
         t.seq = match i with
           | .init => .idle
           | .now => .idle
           | .delta _ => .idle
           | .wait _ => .wait
           | .check _ => .idle
           | .enter => .idle
           | .exit => .idle
           | .fail => .halt))) ∨
    (nextKind s = .poll ∧ s.seq = .wait ∧
      ((deltaBody s.target s).1 = 0#16 ∧ t.seq = .idle ∨ (deltaBody s.target s).1 ≠ 0#16 ∧ t.seq = .wait))

/-- The write columns of R22's access matrix: a register changes only in a step that R22 lists as writing it. -/
def Obligations.RegistersChangeOnlyInTheirWriters : Prop :=
  ∀ s t : State, step s = .next t →
    (t.base ≠ s.base → nextKind s = .reset ∨ nextKind s = .irq ∨ nextInstr? s = some .init) ∧
    (t.us ≠ s.us → nextKind s = .reset ∨ nextKind s = .usec ∨ nextKind s = .irq) ∧
    (t.run ≠ s.run → nextKind s = .reset ∨ nextInstr? s = some .init) ∧
    (t.depth ≠ s.depth → nextKind s = .reset ∨ nextInstr? s = some .enter ∨ nextInstr? s = some .exit) ∧
    (t.im ≠ s.im → nextKind s = .reset ∨ nextKind s = .irq ∨ nextKind s = .poll ∨
      nextInstr? s = some .now ∨ nextInstr? s = some .enter ∨ nextInstr? s = some .exit ∨
      ∃ d, nextInstr? s = some (.delta d) ∨ nextInstr? s = some (.check d)) ∧
    (t.armed ≠ s.armed → nextKind s = .reset ∨ nextInstr? s = some .init) ∧
    (t.icnt ≠ s.icnt → nextKind s = .reset ∨ nextKind s = .usec ∨ nextInstr? s = some .init) ∧
    (t.pend ≠ s.pend → nextKind s = .reset ∨ nextKind s = .usec ∨ nextKind s = .irq) ∧
    (t.target ≠ s.target → nextKind s = .reset ∨ ∃ d, nextInstr? s = some (.wait d)) ∧
    (t.seq ≠ s.seq → nextKind s = .reset ∨ nextKind s = .poll ∨ nextInstr? s = some .fail ∨
      ∃ d, nextInstr? s = some (.wait d))

/-- R46: in every step, a response word is emitted iff a command completes in it: in the `Cmd` step for INIT, NOW, DELTA, CHECK,
ENTER and EXIT, in the completing `Poll` for WAIT, never for FAIL, a reserved word or a step of another agent. -/
def Obligations.OneResponseWhenACommandCompletes : Prop :=
  ∀ s t : State, step s = .next t →
    (t.rsp.isSome = true ↔
      (nextKind s = .poll ∧ t.seq = .idle) ∨
      ∃ i, nextInstr? s = some i ∧ (i = .init ∨ i = .now ∨ (∃ d, i = .delta d) ∨ (∃ d, i = .check d) ∨ i = .enter ∨ i = .exit))

/-- R47: the response value of each instruction: 0 for INIT, ENTER and EXIT; the tick count for NOW; the 16-bit result with upper
half zero for DELTA; 1 or 0 for CHECK; none for FAIL, a reserved word, and the `Cmd` step of a WAIT; 0 for a WAIT at its
completing `Poll`. -/
def Obligations.ResponseValuesFollowTheTable : Prop :=
  (∀ s t : State, exec .init s = .next t → t.rsp = some 0#32) ∧
  (∀ s t : State, exec .now s = .next t → t.rsp = some (nowValue s)) ∧
  (∀ (d : Tick) (s t : State), exec (.delta d) s = .next t →
    ∃ v, t.rsp = some v ∧ v.extractLsb' 0 16 = (deltaBody d s).1 ∧ v.extractLsb' 16 16 = 0#16) ∧
  (∀ (d : Tick) (s t : State), exec (.wait d) s = .next t → t.rsp = none) ∧
  (∀ s t : State, step s = .next t → s.seq = .wait → nextKind s = .poll → t.seq = .idle → t.rsp = some 0#32) ∧
  (∀ (d : Tick) (s t : State), exec (.check d) s = .next t →
    t.rsp = some (if (deltaBody d s).1.toNat < 2 then 1#32 else 0#32)) ∧
  (∀ s t : State, exec .enter s = .next t → t.rsp = some 0#32) ∧
  (∀ s t : State, exec .exit s = .next t → t.rsp = some 0#32) ∧
  (∀ s t : State, exec .fail s = .next t → t.rsp = none) ∧
  (∀ (w : CmdWord) (s t : State) (r : ReservedWord), decode w = .error r → execWord w s = .next t → t.rsp = none)

/-! ### The arbiter -/

/-- R60, R61: ENTER, in every state, sets IM, counts DEPTH up modulo 2^DEPTH_WIDTH, responds 0, and changes nothing else; afterwards no
`Irq` step is enabled and `irq_enable` is 0, whatever PEND is, and a pending request stays pending. -/
def Obligations.EnterMasksAndCountsUp : Prop :=
  decode 0x0600000000#40 = .ok .enter ∧ encode .enter = 0x0600000000#40 ∧
  ∀ s : State,
    enterBody s = { s with im := true, depth := s.depth + 1#Config.depthWidth } ∧
    exec .enter s = .next { s with im := true, depth := s.depth + 1#Config.depthWidth, rsp := some 0#32 } ∧
    ∀ t, exec .enter s = .next t → enabled .irq t = false ∧ t.irqEnable = false ∧
      ∀ u, step t = .next u → nextKind t ≠ .reset → t.pend = true → u.pend = true

/-- R62, R63: EXIT, in every state, counts DEPTH down modulo 2^DEPTH_WIDTH, clears IM exactly when the new DEPTH is 0 and leaves it
otherwise, responds 0, and changes nothing else. Where it unmasks with a request pending, `Irq` is enabled from then on. -/
def Obligations.ExitCountsDownAndUnmasksAtZero : Prop :=
  decode 0x0700000000#40 = .ok .exit ∧ encode .exit = 0x0700000000#40 ∧
  ∀ s : State,
    exitBody s =
      { s with
        depth := s.depth - 1#Config.depthWidth
        im := if s.depth = 1#Config.depthWidth then false else s.im } ∧
    exec .exit s =
      .next { s with
        depth := s.depth - 1#Config.depthWidth
        im := if s.depth = 1#Config.depthWidth then false else s.im
        rsp := some 0#32 } ∧
    ∀ t, exec .exit s = .next t → s.depth = 1#Config.depthWidth → s.pend = true → enabled .irq t = true

/-- R64: from DEPTH 0 and IM 0, after N ENTERs (1 ≤ N, and no more than DEPTH can count) and k ≤ N EXITs in a row, DEPTH is N - k
and IM is 1 exactly as long as k < N. The bound is `2^DEPTH_WIDTH - 1`, so nothing rests on the wrap. -/
def Obligations.NestedSectionsUnmaskOnlyAtTheLastExit : Prop :=
  ∀ (N k : Nat) (s : State) (rest : List StepKind) (more : List CmdWord),
    1 ≤ N → N ≤ 2 ^ Config.depthWidth - 1 → k ≤ N → s.depth = 0#Config.depthWidth → s.im = false → s.seq = .idle →
    s.sched = List.replicate (N + k) .cmd ++ rest →
    s.offered = List.replicate N (encode .enter) ++ (List.replicate k (encode .exit) ++ more) →
    ∃ t, Sys2Proof.core.run (N + k) s = .next t ∧ t.depth.toNat = N - k ∧ (t.im = true ↔ k < N)

/-- R34 (c), R23 item 3, R105: while IM is 1 no `Irq` step occurs and `irq_enable` is 0, a pending request stays pending, and BASE
does not change, whatever the next step is, short of `Reset` and INIT. -/
def Obligations.MaskHoldsOffTheRebase : Prop :=
  ∀ s : State, s.im = true →
    enabled .irq s = false ∧ s.irqEnable = false ∧
    (nextKind s = .irq → step s = .refused (.stepNotEnabled .irq)) ∧
    ∀ t, step s = .next t → nextKind s ≠ .reset →
      (s.pend = true → t.pend = true) ∧ (nextInstr? s ≠ some .init → t.base = s.base)

/-! ### The tick counter -/

/-- R70: INIT, in every state, zeroes BASE, sets RUN and ARMED, restarts ICNT, responds 0, and changes nothing else; so the time
afterwards is what US alone gives, which is 0 for the first INIT after a reset. -/
def Obligations.InitStartsTheClock : Prop :=
  decode 0x0100000000#40 = .ok .init ∧ encode .init = 0x0100000000#40 ∧
  ∀ s : State,
    exec .init s =
      .next { s with base := 0#32, run := true, armed := true, icnt := 0#32, rsp := some 0#32 } ∧
    ∀ t, exec .init s = .next t → nowValue t = sra32 s.us 6 ∧ (s.us = 0#32 → nowValue t = 0#32)

/-- R74, R73, R72, R71: NOW, in every state, responds `BASE + sra(US, 6)` modulo 2^32; of the registers only IM may change, to 1 if
DEPTH is not 0 and to 0 if it is (the net effect R73 derives from the enter and the exit inside the read). -/
def Obligations.NowRespondsTheTickCount : Prop :=
  decode 0x0200000000#40 = .ok .now ∧ encode .now = 0x0200000000#40 ∧
  ∀ s : State,
    exec .now s =
      .next { s with im := decide (s.depth ≠ 0#Config.depthWidth), rsp := some (s.base + s.us.sshiftRight 6) }

/-- R71: `elapsed_ticks` is `floor(US / 64)` below 2^31, a value below 2^25; from 2^31 on it is `floor(US / 64) + 0xFC000000`. It is
always `floor(signed(US) / 64)`. -/
def Obligations.ElapsedTicksDividesBySixtyFour : Prop :=
  ∀ us : Micros,
    (us.toNat < 2 ^ 31 → (elapsedTicks us).toNat = us.toNat / 64 ∧ (elapsedTicks us).toNat < 2 ^ 25) ∧
    (2 ^ 31 ≤ us.toNat → (elapsedTicks us).toNat = us.toNat / 64 + 0xFC000000) ∧
    (elapsedTicks us).toInt = Int.fdiv us.toInt 64

/-- R104, R75, R76: where PEND is 1 and IM is 0, in any SEQ state, the `Irq` step clears PEND, adds `sra(US, 6)` to BASE and zeroes US, in
one step, emits no response, and changes nothing else but IM, which says afterwards whether DEPTH is 0 (R73's net effect). -/
def Obligations.InterruptFoldsTheCounterIntoBase : Prop :=
  ∀ s : State, nextKind s = .irq → s.pend = true → s.im = false →
    step s =
      .next { s with
        base := s.base + s.us.sshiftRight 6
        us := 0#32
        pend := false
        im := decide (s.depth ≠ 0#Config.depthWidth)
        sched := s.sched.tail
        rsp := none }

/-- R77 item 2, R106 (a): the rebase cannot be seen. It leaves the tick count exactly as it was, and every command issued and every poll
of a WAIT made right after it gets the response it would have got right before; the poll ends the WAIT after it exactly where it
would have before. -/
def Obligations.RebaseIsTransparent : Prop :=
  ∀ s t : State, nextKind s = .irq → step s = .next t →
    nowValue t = nowValue s ∧
    (∀ (i : Instr) (a b : State), exec i s = .next a → exec i t = .next b → a.rsp = b.rsp) ∧
    (pollBody s).rsp = (pollBody t).rsp ∧ (pollBody s).seq = (pollBody t).seq

/-- R137, R76: in the nominal range a rebase moves `floor(US / 64)` ticks and discards exactly `US mod 64` microseconds: with BASE
read in microseconds, `64 * BASE + US` falls by `US mod 64` (short of BASE's wrap), which is below 64. -/
def Obligations.RebaseDiscardsTheSubTickRemainder : Prop :=
  ∀ s t : State, nextKind s = .irq → step s = .next t → s.us.toNat < 2 ^ 31 →
    s.base.toNat + s.us.toNat / 64 < 2 ^ 32 →
    64 * t.base.toNat + t.us.toNat + s.us.toNat % 64 = 64 * s.base.toNat + s.us.toNat

/-- R77 item 3, R137: drift. Short of BASE's wrap, in the nominal range, each step but `Reset` and INIT keeps the account of the e
microseconds elapsed and the k rebases delivered; and where the account holds, the tick count never runs ahead of real time and
falls behind by less than one tick and 63 microseconds for each rebase: `e/64 - 1 - k * 63/64 < now_value <= e/64`. -/
def Obligations.ClockRunsSlowByUnderATickARebase : Prop :=
  (∀ (e k : Nat) (s t : State), TimeAccount e k s → s.run = true → UsNominal s → s.base.toNat + s.us.toNat / 64 < 2 ^ 32 →
    step s = .next t → nextKind s ≠ .reset → nextInstr? s ≠ some .init →
    TimeAccount (if nextKind s = .usec then e + 1 else e) (if nextKind s = .irq then k + 1 else k) t) ∧
  (∀ (e k : Nat) (s : State), TimeAccount e k s → UsNominal s → s.base.toNat + s.us.toNat / 64 < 2 ^ 32 →
    64 * (nowValue s).toNat ≤ e ∧ e < 64 * (nowValue s).toNat + 64 + 63 * k) ∧
  (∀ s t : State, exec .init s = .next t → s.us = 0#32 → TimeAccount 0 0 t)

/-- R77 item 1: with US in the nominal range before and after, no step but `Reset` and INIT moves the tick count, except a `Usec` step,
which moves it by at most one tick, forward; so short of the 2^32 wrap it never goes back. -/
def Obligations.TickCountNeverGoesBack : Prop :=
  ∀ s t : State, step s = .next t → nextKind s ≠ .reset → nextInstr? s ≠ some .init → UsNominal s → UsNominal t →
    (nowValue t = nowValue s ∨ (nextKind s = .usec ∧ nowValue t = nowValue s + 1#32)) ∧
    ((nowValue s).toNat < 2 ^ 32 - 1 → (nowValue s).toNat ≤ (nowValue t).toNat)

/-- R72, R102: with the clock running and US staying nominal, after n `Usec` steps in a row the tick count is
`BASE + floor((US + n) / 64)` modulo 2^32, whatever the periodic facility did meanwhile. -/
def Obligations.ClockCountsSixtyFourMicrosecondsATick : Prop :=
  ∀ (n : Nat) (s : State) (rest : List StepKind), s.run = true → s.us.toNat + n < 2 ^ 31 →
    s.sched = List.replicate n .usec ++ rest →
    ∃ t, Sys2Proof.core.run n s = .next t ∧ t.sched = rest ∧ t.us.toNat = s.us.toNat + n ∧
      nowValue t = s.base + BitVec.ofNat 32 ((s.us.toNat + n) / 64)

/-- R130: what the hardware does where US leaves the nominal range (the spec's own hardware, decision D2; a hazard no claim should
rest on): the tick count jumps back by 2^26 - 1 at the sign bit, and US wraps. -/
def Obligations.TickCountJumpsBackAtTheSignBit : Prop :=
  ∀ s : State, s.run = true →
    (s.us = 0x7FFFFFFF#32 → nowValue (usecBody s) = nowValue s - 67108863#32) ∧
    (s.us = 0xFFFFFFFF#32 → nowValue s = s.base - 1#32 ∧ (usecBody s).us = 0#32 ∧ nowValue (usecBody s) = s.base)

/-! ### Deadlines -/

/-- R80: `delta_body` returns 0 for a distance due or past, the distance itself from 1 to 65,534, `0xFFFF` from 65,535 on; so the
result is `min(max(s, 0), 65535)` of the signed distance. It changes DEPTH and IM only as `now_body` does. -/
def Obligations.DeltaBodySaturatesTheSignedDistance : Prop :=
  ∀ (target : Tick) (s : State),
    let d := (target - nowValue s).toInt
    let r := (deltaBody target s).1
    (d ≤ 0 → r = 0#16) ∧ (1 ≤ d → d ≤ 65534 → (r.toNat : Int) = d) ∧ (d = 65535 → r = 0xFFFF#16) ∧
    (65536 ≤ d → r = 0xFFFF#16) ∧ (r.toNat : Int) = min (max d 0) 65535 ∧
    (deltaBody target s).2 = (nowBody s).2

/-- R81: DELTA, in every state, responds the saturated signed distance, zero-extended; of the registers only IM may change, as for
NOW (R73's net effect). -/
def Obligations.DeltaRespondsTheSaturatedDistance : Prop :=
  ∀ (target : Tick) (s : State),
    decode (0x03#8 ++ target) = .ok (.delta target) ∧
    ∃ v : RspWord,
      exec (.delta target) s = .next { s with im := decide (s.depth ≠ 0#Config.depthWidth), rsp := some v } ∧
      (v.toNat : Int) = min (max (target - (s.base + s.us.sshiftRight 6)).toInt 0) 65535

/-- R85: CHECK, in every state, responds 1 exactly when the deadline is at most one tick ahead and 0 otherwise; of the registers
only IM may change, as for NOW (R73's net effect). -/
def Obligations.CheckRespondsWhetherDueWithinATick : Prop :=
  ∀ (target : Tick) (s : State),
    decode (0x05#8 ++ target) = .ok (.check target) ∧
    exec (.check target) s =
      .next { s with
        im := decide (s.depth ≠ 0#Config.depthWidth)
        rsp := some (if (target - (s.base + s.us.sshiftRight 6)).toInt ≤ 1 then 1#32 else 0#32) }

/-- R82: WAIT, in every state, latches its operand in TARGET, sets SEQ to WAIT, emits no response, and changes nothing else: DEPTH and
IM are not touched and the deadline is not evaluated. -/
def Obligations.WaitLatchesTheDeadline : Prop :=
  ∀ (target : Tick) (s : State),
    decode (0x04#8 ++ target) = .ok (.wait target) ∧
    exec (.wait target) s = .next { s with target := target, seq := .wait, rsp := none }

/-- R83, R84 items 1 and 3: a `Poll` completes the WAIT, with response 0, exactly when the signed distance to TARGET is at most 0;
otherwise SEQ stays. Of the other registers only IM may change, as for NOW (R73's net effect). -/
def Obligations.PollCompletesExactlyWhenDue : Prop :=
  ∀ s : State, nextKind s = .poll → s.seq = .wait →
    ((s.target - nowValue s).toInt ≤ 0 →
      step s = .next { s with
        im := decide (s.depth ≠ 0#Config.depthWidth), seq := .idle, sched := s.sched.tail, rsp := some 0#32 }) ∧
    (0 < (s.target - nowValue s).toInt →
      step s = .next { s with im := decide (s.depth ≠ 0#Config.depthWidth), sched := s.sched.tail, rsp := none })

/-- R84 items 1, 2 and 4: a WAIT on a deadline ahead, polled after n `Usec` steps with US staying nominal, completes at that poll
exactly when that many microseconds have brought the tick count to the deadline: never early, and then at once. -/
def Obligations.WaitCompletesOnceTheDeadlineIsReached : Prop :=
  ∀ (n : Nat) (s : State) (rest : List StepKind), s.seq = .wait → s.run = true → s.us.toNat + n < 2 ^ 31 →
    0 < (s.target - nowValue s).toInt →
    s.sched = List.replicate n .usec ++ .poll :: rest →
    ∃ t, Sys2Proof.core.run (n + 1) s = .next t ∧
      (if (s.target - nowValue s).toInt ≤ ((s.us.toNat + n) / 64 - s.us.toNat / 64 : Nat)
        then t.seq = .idle ∧ t.rsp = some 0#32
        else t.seq = .wait ∧ t.rsp = none)

/-- R87: the half-range rule. A deadline k ticks ahead modulo 2^32, 1 ≤ k < 2^31, reads as min(k, 65535) ticks ahead, even where
the sum wraps; k = 0 and 2^31 ≤ k read as due. CHECK agrees: true for k = 0, 1 and from 2^31 on. -/
def Obligations.DeadlinesUnderHalfTheCycleReadAsFuture : Prop :=
  ∀ (s : State) (k : Tick),
    ∃ a b : State, exec (.delta (nowValue s + k)) s = .next a ∧ exec (.check (nowValue s + k)) s = .next b ∧
      (k.toNat < 2 ^ 31 → a.rsp = some (BitVec.ofNat 32 (min k.toNat 65535))) ∧
      (2 ^ 31 ≤ k.toNat → a.rsp = some 0#32) ∧
      (b.rsp = some (if k.toNat ≤ 1 ∨ 2 ^ 31 ≤ k.toNat then 1#32 else 0#32))

/-- R134, R130: with BASE as it stands the tick count keeps within the band from `BASE - 2^25` to `BASE + 2^25 - 1`, whatever US holds, so a
target k ticks ahead of BASE that lies outside it is never reached. From 2^25 to below `2^31 - 2^25` no `Poll` completes the WAIT.
For every other k outside the band the poll at the sign bit finds the target 2^31 ticks ahead or more, reads it as past and
completes (R80, R83, R87); R134's words say never, and following R83 there is the model's choice (log entry 24). -/
def Obligations.UnreachedTargetsReadByTheHalfRange : Prop :=
  ∀ s : State,
    (-(2 ^ 25) ≤ (nowValue s - s.base).toInt ∧ (nowValue s - s.base).toInt < 2 ^ 25) ∧
    (2 ^ 25 ≤ (s.target - s.base).toNat → (s.target - s.base).toNat < 2 ^ 32 - 2 ^ 25 → nowValue s ≠ s.target) ∧
    (2 ^ 25 ≤ (s.target - s.base).toNat → (s.target - s.base).toNat < 2 ^ 31 - 2 ^ 25 →
      (pollBody s).seq = s.seq ∧ (pollBody s).rsp = none) ∧
    (2 ^ 31 - 2 ^ 25 ≤ (s.target - s.base).toNat → (s.target - s.base).toNat < 2 ^ 32 - 2 ^ 25 →
      s.us = 0x80000000#32 → (pollBody s).seq = .idle ∧ (pollBody s).rsp = some 0#32)

/-- R143: within the nominal range, one `Usec` step never raises a DELTA result, and leaves a true CHECK true, unless the deadline lies
the full half cycle behind (there the reading turns over, R87). -/
def Obligations.DueStaysDueAsTimePasses : Prop :=
  ∀ (target : Tick) (s : State), UsNominal s → UsNominal (usecBody s) →
    target - nowValue s ≠ 0x80000000#32 →
    (deltaBody target (usecBody s)).1.toNat ≤ (deltaBody target s).1.toNat ∧
    ((deltaBody target s).1.toNat < 2 → (deltaBody target (usecBody s)).1.toNat < 2)

/-- R25: what a requester cannot see. Two states with the same tick count answer every command alike, whatever their BASE and US
taken apart, RUN, DEPTH, IM, ARMED, ICNT, PEND and TARGET. -/
def Obligations.ResponsesDependOnTheTickCountAlone : Prop :=
  ∀ (i : Instr) (s t a b : State), nowValue s = nowValue t → exec i s = .next a → exec i t = .next b →
    a.rsp = b.rsp

/-! ### The fatal halt -/

/-- R90: FAIL, in every state, sets SEQ to HALT, emits no response, and changes nothing else; `halted` is then 1 and `cmd_ready` 0.
From then on no step but `Reset` brings a response or clears a mask that FAIL found set, and no command is accepted in HALT or
during a WAIT, so no second FAIL. -/
def Obligations.FailHaltsTheForeground : Prop :=
  decode 0x0800000000#40 = .ok .fail ∧ encode .fail = 0x0800000000#40 ∧
  ∀ s : State,
    exec .fail s = .next { s with seq := .halt, rsp := none } ∧
    (∀ t, exec .fail s = .next t → t.halted = true ∧ t.cmdReady = false) ∧
    (s.seq ≠ .idle → enabled .cmd s = false) ∧
    (∀ t, s.seq = .halt → step s = .next t → nextKind s ≠ .reset →
      t.seq = .halt ∧ t.rsp = none ∧ (s.im = true → t.im = true))

/-- R91, R92: in HALT no `Cmd` and no `Poll` step occurs, `Usec` goes on, `Irq` goes on under its usual condition, no response is ever
emitted, and only `Reset` leaves HALT. -/
def Obligations.HaltIsLeftOnlyByReset : Prop :=
  ∀ s : State, s.seq = .halt →
    s.halted = true ∧ s.cmdReady = false ∧ completed s = false ∧
    enabled .cmd s = false ∧ enabled .poll s = false ∧ enabled .usec s = true ∧
    (enabled .irq s = true ↔ s.pend = true ∧ s.im = false) ∧
    ∀ t, step s = .next t → (nextKind s = .reset ∧ t.seq = .idle) ∨ (t.seq = .halt ∧ t.rsp = none)

/-! ### Time base, interrupt controller, reset -/

/-- R102: the `Usec` step, in every state, the mask and SEQ notwithstanding: US counts while RUN is 1, ICNT counts while ARMED is 1 and
reloads to 0 at `REBASE_PERIOD_US`, raising PEND; nothing else changes. No other step makes time pass: it leaves US and ICNT or
zeroes them. -/
def Obligations.UsecAdvancesTheCounters : Prop :=
  (∀ s : State, nextKind s = .usec →
    step s =
      .next { s with
        us := if s.run then s.us + 1#32 else s.us
        icnt :=
          if s.armed then
            (if s.icnt + 1#32 = BitVec.ofNat 32 Config.rebasePeriodUs then 0#32 else s.icnt + 1#32)
          else s.icnt
        pend := s.pend || (s.armed && decide (s.icnt + 1#32 = BitVec.ofNat 32 Config.rebasePeriodUs))
        sched := s.sched.tail
        rsp := none }) ∧
  (∀ s t : State, step s = .next t → nextKind s ≠ .usec →
    (t.us = s.us ∨ t.us = 0#32) ∧ (t.icnt = s.icnt ∨ t.icnt = 0#32))

/-- R103: with the facility armed, ICNT counts the microseconds since the latest raise; PEND is raised at the step that completes the
period and not before, by n `Usec` steps in a row from any ICNT in range. -/
def Obligations.InterruptIsRaisedOnceAPeriod : Prop :=
  ∀ (n : Nat) (s : State) (rest : List StepKind), s.armed = true → s.icnt.toNat + n ≤ Config.rebasePeriodUs →
    s.icnt.toNat < Config.rebasePeriodUs → s.sched = List.replicate n .usec ++ rest →
    ∃ t, Sys2Proof.core.run n s = .next t ∧
      (if s.icnt.toNat + n = Config.rebasePeriodUs then t.icnt = 0#32 ∧ t.pend = true
        else t.icnt.toNat = s.icnt.toNat + n ∧ t.pend = s.pend)

/-- R116: a microsecond leaves a pending request pending, whether or not it raises another; and the one rebase delivered later, after any
number n of microseconds in the nominal range, folds in all of US and leaves nothing pending. -/
def Obligations.MergedRequestsLoseNoTime : Prop :=
  (∀ s : State, s.pend = true → (usecBody s).pend = true) ∧
  ∀ (n : Nat) (s : State) (rest : List StepKind), s.run = true → s.pend = true → s.im = false →
    s.us.toNat + n < 2 ^ 31 → s.sched = List.replicate n .usec ++ .irq :: rest →
    ∃ t, Sys2Proof.core.run (n + 1) s = .next t ∧ t.pend = false ∧ t.us = 0#32 ∧
      t.base = s.base + BitVec.ofNat 32 ((s.us.toNat + n) / 64)

/-- R120: the `Reset` step, in every state, gives every register its reset value, emits no response, and leaves `cmd_ready` 1,
`irq_enable` 1 and `halted` 0. The counter is then stopped, the facility disarmed and nothing pending, and every step that is no INIT
keeps it so, in every such state: no interrupt is raised until INIT. What becomes of the model's own lists is not claimed (log
entry 6). -/
def Obligations.ResetStepClearsEveryRegister : Prop :=
  (∀ s : State, nextKind s = .reset →
    ∃ t, step s = .next t ∧
      t.base = 0#32 ∧ t.us = 0#32 ∧ t.run = false ∧ t.depth = 0#Config.depthWidth ∧ t.im = false ∧ t.armed = false ∧
      t.icnt = 0#32 ∧ t.pend = false ∧ t.target = 0#32 ∧ t.seq = .idle ∧ t.rsp = none ∧
      t.cmdReady = true ∧ t.irqEnable = true ∧ t.halted = false) ∧
  (∀ s t : State, s.run = false ∧ s.armed = false ∧ s.pend = false → nextInstr? s ≠ some .init → step s = .next t →
    t.run = false ∧ t.armed = false ∧ t.pend = false)

/-- R24: the value of every register after reset. -/
def Obligations.ResetStateHasTheTabulatedValues : Prop :=
  State.reset.base = 0#32 ∧ State.reset.us = 0#32 ∧ State.reset.run = false ∧ State.reset.depth = 0#Config.depthWidth ∧
  State.reset.im = false ∧ State.reset.armed = false ∧ State.reset.icnt = 0#32 ∧ State.reset.pend = false ∧
  State.reset.target = 0#32 ∧ State.reset.seq = .idle

/-! ### Invariants -/

/-- R23 items 5 and 6 (with RUN = ARMED, and the stopped clock at 0): every step keeps the timer invariant, in every state that
has it, misuse included. -/
def Obligations.EveryStepKeepsTheTimerInvariant : Prop :=
  ∀ s t : State, TimerInv s → step s = .next t → TimerInv t

/-- The timer invariant, the mask invariant, the nominal range and every latency bound hold after reset. -/
def Obligations.InvariantsHoldAfterReset : Prop :=
  TimerInv State.reset ∧ MaskIffDepth State.reset ∧ UsNominal State.reset ∧ ∀ l, UsWithinLatency l State.reset

/-- R23 item 5 for every period from 1 to 2^31 - 1 (decision D5: nothing depends on the default): the `Usec` step of a facility of
that period keeps ICNT below the period. -/
def Obligations.IntervalCounterStaysBelowAnyPeriod : Prop :=
  ∀ (period : Micros) (s : State), 1 ≤ period.toNat → period.toNat < 2 ^ 31 → s.icnt.toNat < period.toNat →
    (usecBodyWith period s).icnt.toNat < period.toNat

/-- R23 item 1: under balanced use `IM = 1` iff `DEPTH > 0`: every step that is no EXIT at DEPTH 0 and no ENTER at the greatest DEPTH
keeps it. -/
def Obligations.BalancedStepsKeepMaskIffDepth : Prop :=
  ∀ s t : State, MaskIffDepth s → unbalancedNext s = false → step s = .next t → MaskIffDepth t

/-- The conservative machine makes only steps of the machine, and where it stops, the stop names the hazard the next step would run
into: U1, U5, U2, U3, U4 or U6 (`93_implementation_defined.md`). -/
def Obligations.GuardedStepIsStepShortOfTheHazards : Prop :=
  (∀ s t : State, guardedStep s = .next t → step s = .next t) ∧
  (∀ s : State, contractStop s = none → guardedStep s = step s) ∧
  (∀ s : State, guardedStep s = .fault .exitAtDepthZero ↔ nextInstr? s = some .exit ∧ s.depth = 0#Config.depthWidth) ∧
  (∀ s : State, guardedStep s = .fault .enterAtDepthMax ↔ nextInstr? s = some .enter ∧ s.depth = depthMax) ∧
  (∀ s : State, guardedStep s = .fault .usLeavesNominalRange ↔
    nextKind s = .usec ∧ s.run = true ∧ 2 ^ 31 ≤ s.us.toNat + 1) ∧
  (∀ s : State, guardedStep s = .refused .secondInit ↔ nextInstr? s = some .init ∧ s.run = true) ∧
  (∀ s : State, guardedStep s = .refused .timeBeforeInit ↔ s.run = false ∧
    (nextInstr? s = some .now ∨ ∃ d, nextInstr? s = some (.delta d) ∨ nextInstr? s = some (.wait d) ∨
      nextInstr? s = some (.check d))) ∧
  (∀ s : State, guardedStep s = .refused .reservedWord ↔ ∃ w r, nextWord? s = some w ∧ decode w = .error r)

/-- Along every run of the conservative machine, of any length, from any state that has them: the timer invariant, `IM = 1` iff
`DEPTH > 0`, and US in the nominal range (R23, R72). -/
def Obligations.GuardedRunsStayWithinTheInvariants : Prop :=
  ∀ (n : Nat) (s t : State), TimerInv s ∧ MaskIffDepth s ∧ UsNominal s → guardedCore.run n s = .next t →
    TimerInv t ∧ MaskIffDepth t ∧ UsNominal t

/-- Decision D18's named premise at work: if every raised interrupt is delivered before `IRQ_LATENCY_US` = l microseconds have passed
(l below the period) and INIT is not issued twice, then US holds at most a period and l microseconds, and so stays nominal (R72).
The premise is on the step taken, and the invariant is kept step by step. -/
def Obligations.LatencyBoundKeepsTheCounterNominal : Prop :=
  ∀ (l : Nat) (s t : State), l < Config.rebasePeriodUs → TimerInv s → UsWithinLatency l s →
    (nextKind s = .usec → s.pend = true → s.icnt.toNat < l) →
    ¬ (nextInstr? s = some .init ∧ s.run = true) →
    step s = .next t → UsWithinLatency l t ∧ t.us.toNat ≤ Config.rebasePeriodUs + l ∧ UsNominal t

/-- R123: before the first INIT the clock stands still. As long as INIT is not issued, every step leaves RUN 0, the tick count 0 and no
request pending. -/
def Obligations.ClockStandsStillBeforeInit : Prop :=
  ∀ s t : State, TimerInv s → s.run = false → nextInstr? s ≠ some .init → step s = .next t →
    t.run = false ∧ nowValue t = 0#32 ∧ t.pend = false

/-- R123: a WAIT before INIT on a target of 1 to 2^31 - 1 never completes: whatever step is taken, `Reset` apart, the WAIT goes on, and
in the same condition. -/
def Obligations.WaitBeforeInitHangs : Prop :=
  ∀ s t : State, TimerInv s → s.run = false → s.seq = .wait → 1 ≤ s.target.toNat → s.target.toNat < 2 ^ 31 →
    step s = .next t → nextKind s ≠ .reset →
    t.run = false ∧ t.seq = .wait ∧ t.target = s.target ∧ TimerInv t ∧ t.rsp = none

/-! ### Liveness, under the fairness of R113 -/

/-- R113 (b) at work, with R83 and R84 item 2: in a fair run without end, a WAIT whose deadline is due for as long as the WAIT goes on
completes: some `Poll` ends it, with response 0, and until then it goes on. -/
def Obligations.FairPollingCompletesADueWait : Prop :=
  ∀ (x : Nat → State) (n : Nat), Execution x → Fair x → (x n).seq = .wait →
    PersistsFrom n (fun m => nextKind (x m) ≠ .reset) →
    PersistsFrom n (fun m => (∀ k, n ≤ k → k ≤ m → (x k).seq = .wait) → ((x m).target - nowValue (x m)).toInt ≤ 0) →
    ∃ m, n ≤ m ∧ (∀ k, n ≤ k → k ≤ m → (x k).seq = .wait) ∧ nextKind (x m) = .poll ∧
      (x (m + 1)).seq = .idle ∧ (x (m + 1)).rsp = some 0#32

/-- R113 (c) at work, with R104: in a fair run without end, a request that stays unmasked for as long as it is pending is delivered: some
`Irq` step folds US into BASE and clears the request, and until then it stays pending. -/
def Obligations.FairRunsDeliverAnUnmaskedInterrupt : Prop :=
  ∀ (x : Nat → State) (n : Nat), Execution x → Fair x → (x n).pend = true →
    PersistsFrom n (fun m => nextKind (x m) ≠ .reset) →
    PersistsFrom n (fun m => (∀ k, n ≤ k → k ≤ m → (x k).pend = true) → (x m).im = false) →
    ∃ m, n ≤ m ∧ (∀ k, n ≤ k → k ≤ m → (x k).pend = true) ∧ nextKind (x m) = .irq ∧
      (x (m + 1)).base = nowValue (x m) ∧ (x (m + 1)).us = 0#32 ∧ (x (m + 1)).pend = false

/-- R113 (a) at work, with R134: in a fair run without end, a WAIT inside a critical section on a deadline that US reaches before its sign
bit comes due: `US + 64 * ticks_to_wait < 2^31`. Until then it goes on, however it is polled. -/
def Obligations.FairTimeBringsAMaskedWaitDue : Prop :=
  ∀ (x : Nat → State) (n : Nat), Execution x → Fair x → (x n).seq = .wait → (x n).run = true →
    (x n).im = true → (x n).depth ≠ 0#Config.depthWidth → 0 < ((x n).target - nowValue (x n)).toInt →
    (x n).us.toNat + 64 * ((x n).target - nowValue (x n)).toNat < 2 ^ 31 →
    PersistsFrom n (fun m => nextKind (x m) ≠ .reset) →
    ∃ m, n ≤ m ∧ (∀ k, n ≤ k → k ≤ m → (x k).seq = .wait) ∧ (x m).target = (x n).target ∧
      nowValue (x m) = (x m).target

/-- R113 (b) at work, with R123: in a fair run without end, a WAIT before INIT on a target of 1 to 2^31 - 1 is polled for ever, and no poll
ends it, as long as no `Reset` comes. -/
def Obligations.HangingWaitIsPolledForEver : Prop :=
  ∀ (x : Nat → State) (n : Nat), Execution x → Fair x → TimerInv (x n) → (x n).run = false → (x n).seq = .wait →
    1 ≤ (x n).target.toNat → (x n).target.toNat < 2 ^ 31 →
    PersistsFrom n (fun m => nextKind (x m) ≠ .reset) →
    PersistsFrom n (fun m => (x m).seq = .wait) ∧ Recurs (fun m => nextKind (x m) = .poll)

/-- R113 (b) at work, with R134 and U13: in a fair run without end, a WAIT inside a critical section on a target 2^25 to below `2^31 - 2^25`
ticks ahead of BASE is polled for ever, and no poll ends it, as long as no `Reset` comes: a hang, shown as an infinite run. -/
def Obligations.MaskedWaitBeyondReachIsPolledForEver : Prop :=
  ∀ (x : Nat → State) (n : Nat), Execution x → Fair x → (x n).seq = .wait → (x n).im = true →
    (x n).depth ≠ 0#Config.depthWidth →
    2 ^ 25 ≤ ((x n).target - (x n).base).toNat → ((x n).target - (x n).base).toNat < 2 ^ 31 - 2 ^ 25 →
    PersistsFrom n (fun m => nextKind (x m) ≠ .reset) →
    PersistsFrom n (fun m => (x m).seq = .wait) ∧ Recurs (fun m => nextKind (x m) = .poll)
end

