-- ==== Sys2Proof/Laws/Config.lean ====
section
/-!
SUPPORT. Laws/Config: the widths of the word types as numbers, and R5's constraint on the rebase period.
-/

namespace Sys2Proof.Config

/-! The widths as numbers, for `omega` (a `BitVec.isLt` bound is a power of one of them). -/

@[simp] theorem two_pow_tickWidth : 2 ^ tickWidth = 4294967296 := by decide
@[simp] theorem two_pow_usWidth : 2 ^ usWidth = 4294967296 := by decide
@[simp] theorem two_pow_deltaWidth : 2 ^ deltaWidth = 65536 := by decide
@[simp] theorem two_pow_depthWidth : 2 ^ depthWidth = 256 := by decide

theorem tick_lt (t : Tick) : t.toNat < 4294967296 := t.isLt
theorem micros_lt (m : Micros) : m.toNat < 4294967296 := m.isLt
theorem delta_lt (r : Delta) : r.toNat < 65536 := r.isLt
theorem depth_lt (d : Depth) : d.toNat < 256 := d.isLt

/-- R5: the period is at least 1 and below `2^(US_WIDTH-1)`. -/
theorem rebasePeriodUs_in_range : 1 ≤ rebasePeriodUs ∧ rebasePeriodUs < 2 ^ (usWidth - 1) := by decide

@[simp] theorem rebasePeriod_toNat : Machine.rebasePeriod.toNat = rebasePeriodUs := by decide

end Sys2Proof.Config
end

