-- ==== Sys2Proof/Laws/Decode.lean ====
section
/-!
SUPPORT. Laws/Decode: the fields of a joined word, and the word of split fields.
-/

namespace Sys2Proof

@[simp] theorem opField_joinFields (f : Fields) : opField (joinFields f) = f.op :=
  BitVec.extractLsb'_append_eq_left (a := f.op) (b := f.arg)

@[simp] theorem argField_joinFields (f : Fields) : argField (joinFields f) = f.arg :=
  BitVec.extractLsb'_append_eq_right (a := f.op) (b := f.arg)

@[simp] theorem splitFields_joinFields (f : Fields) : splitFields (joinFields f) = f := by
  simp [splitFields]

@[simp] theorem joinFields_splitFields (w : CmdWord) : joinFields (splitFields w) = w := by
  simp only [joinFields, splitFields, opField, argField]
  apply BitVec.eq_of_getLsbD_eq
  intro i hi
  rw [BitVec.getLsbD_append]
  by_cases h : i < 32
  · simp [h]
  · have hi : i < 40 := hi
    have : i - 32 < 8 := by omega
    simp [h, this, Nat.add_sub_cancel' (Nat.le_of_not_lt h)]

theorem joinFields_inj {f g : Fields} (h : joinFields f = joinFields g) : f = g := by
  simpa using congrArg splitFields h

theorem splitFields_eq_iff (w : CmdWord) (f : Fields) : splitFields w = f ↔ w = joinFields f :=
  ⟨fun h => by simp [← h], fun h => by simp [h]⟩

end Sys2Proof
end

