-- ==== Sys2Proof/Laws/State.lean ====
section
/-!
SUPPORT. Laws/State: what each named update of the state writes and what it leaves, one lemma for each field of each update, so that
no later proof unfolds a record update. They are proved `by rfl`, not by the term `rfl`, so that `simp` rewrites with them in the condition
of an `if` without leaving its Decidable instance behind.
-/

namespace Sys2Proof.Machine

/-! ### `respond` -/

@[simp] theorem respond_base (v : RspWord) (s : State) : (respond v s).base = s.base := by rfl
@[simp] theorem respond_us (v : RspWord) (s : State) : (respond v s).us = s.us := by rfl
@[simp] theorem respond_run (v : RspWord) (s : State) : (respond v s).run = s.run := by rfl
@[simp] theorem respond_depth (v : RspWord) (s : State) : (respond v s).depth = s.depth := by rfl
@[simp] theorem respond_im (v : RspWord) (s : State) : (respond v s).im = s.im := by rfl
@[simp] theorem respond_armed (v : RspWord) (s : State) : (respond v s).armed = s.armed := by rfl
@[simp] theorem respond_icnt (v : RspWord) (s : State) : (respond v s).icnt = s.icnt := by rfl
@[simp] theorem respond_pend (v : RspWord) (s : State) : (respond v s).pend = s.pend := by rfl
@[simp] theorem respond_target (v : RspWord) (s : State) : (respond v s).target = s.target := by rfl
@[simp] theorem respond_seq (v : RspWord) (s : State) : (respond v s).seq = s.seq := by rfl
@[simp] theorem respond_sched (v : RspWord) (s : State) : (respond v s).sched = s.sched := by rfl
@[simp] theorem respond_offered (v : RspWord) (s : State) : (respond v s).offered = s.offered := by rfl
@[simp] theorem respond_rsp (v : RspWord) (s : State) : (respond v s).rsp = some v := by rfl

/-! ### `noResponse` -/

@[simp] theorem noResponse_base (s : State) : (noResponse s).base = s.base := by rfl
@[simp] theorem noResponse_us (s : State) : (noResponse s).us = s.us := by rfl
@[simp] theorem noResponse_run (s : State) : (noResponse s).run = s.run := by rfl
@[simp] theorem noResponse_depth (s : State) : (noResponse s).depth = s.depth := by rfl
@[simp] theorem noResponse_im (s : State) : (noResponse s).im = s.im := by rfl
@[simp] theorem noResponse_armed (s : State) : (noResponse s).armed = s.armed := by rfl
@[simp] theorem noResponse_icnt (s : State) : (noResponse s).icnt = s.icnt := by rfl
@[simp] theorem noResponse_pend (s : State) : (noResponse s).pend = s.pend := by rfl
@[simp] theorem noResponse_target (s : State) : (noResponse s).target = s.target := by rfl
@[simp] theorem noResponse_seq (s : State) : (noResponse s).seq = s.seq := by rfl
@[simp] theorem noResponse_sched (s : State) : (noResponse s).sched = s.sched := by rfl
@[simp] theorem noResponse_offered (s : State) : (noResponse s).offered = s.offered := by rfl
@[simp] theorem noResponse_rsp (s : State) : (noResponse s).rsp = none := by rfl

/-! ### `enterBody` -/

@[simp] theorem enterBody_base (s : State) : (enterBody s).base = s.base := by rfl
@[simp] theorem enterBody_us (s : State) : (enterBody s).us = s.us := by rfl
@[simp] theorem enterBody_run (s : State) : (enterBody s).run = s.run := by rfl
@[simp] theorem enterBody_depth (s : State) : (enterBody s).depth = s.depth + 1#Config.depthWidth := by rfl
@[simp] theorem enterBody_im (s : State) : (enterBody s).im = true := by rfl
@[simp] theorem enterBody_armed (s : State) : (enterBody s).armed = s.armed := by rfl
@[simp] theorem enterBody_icnt (s : State) : (enterBody s).icnt = s.icnt := by rfl
@[simp] theorem enterBody_pend (s : State) : (enterBody s).pend = s.pend := by rfl
@[simp] theorem enterBody_target (s : State) : (enterBody s).target = s.target := by rfl
@[simp] theorem enterBody_seq (s : State) : (enterBody s).seq = s.seq := by rfl
@[simp] theorem enterBody_sched (s : State) : (enterBody s).sched = s.sched := by rfl
@[simp] theorem enterBody_offered (s : State) : (enterBody s).offered = s.offered := by rfl
@[simp] theorem enterBody_rsp (s : State) : (enterBody s).rsp = s.rsp := by rfl

/-! ### `exitBody` -/

@[simp] theorem exitBody_base (s : State) : (exitBody s).base = s.base := by rfl
@[simp] theorem exitBody_us (s : State) : (exitBody s).us = s.us := by rfl
@[simp] theorem exitBody_run (s : State) : (exitBody s).run = s.run := by rfl
@[simp] theorem exitBody_depth (s : State) : (exitBody s).depth = s.depth - 1#Config.depthWidth := by rfl
@[simp] theorem exitBody_im (s : State) :
    (exitBody s).im = if depthIsZero (s.depth - 1#Config.depthWidth) then false else s.im := by rfl
@[simp] theorem exitBody_armed (s : State) : (exitBody s).armed = s.armed := by rfl
@[simp] theorem exitBody_icnt (s : State) : (exitBody s).icnt = s.icnt := by rfl
@[simp] theorem exitBody_pend (s : State) : (exitBody s).pend = s.pend := by rfl
@[simp] theorem exitBody_target (s : State) : (exitBody s).target = s.target := by rfl
@[simp] theorem exitBody_seq (s : State) : (exitBody s).seq = s.seq := by rfl
@[simp] theorem exitBody_sched (s : State) : (exitBody s).sched = s.sched := by rfl
@[simp] theorem exitBody_offered (s : State) : (exitBody s).offered = s.offered := by rfl
@[simp] theorem exitBody_rsp (s : State) : (exitBody s).rsp = s.rsp := by rfl

/-! ### `takeTurn` -/

@[simp] theorem takeTurn_base (s : State) : (takeTurn s).base = s.base := by rfl
@[simp] theorem takeTurn_us (s : State) : (takeTurn s).us = s.us := by rfl
@[simp] theorem takeTurn_run (s : State) : (takeTurn s).run = s.run := by rfl
@[simp] theorem takeTurn_depth (s : State) : (takeTurn s).depth = s.depth := by rfl
@[simp] theorem takeTurn_im (s : State) : (takeTurn s).im = s.im := by rfl
@[simp] theorem takeTurn_armed (s : State) : (takeTurn s).armed = s.armed := by rfl
@[simp] theorem takeTurn_icnt (s : State) : (takeTurn s).icnt = s.icnt := by rfl
@[simp] theorem takeTurn_pend (s : State) : (takeTurn s).pend = s.pend := by rfl
@[simp] theorem takeTurn_target (s : State) : (takeTurn s).target = s.target := by rfl
@[simp] theorem takeTurn_seq (s : State) : (takeTurn s).seq = s.seq := by rfl
@[simp] theorem takeTurn_sched (s : State) : (takeTurn s).sched = s.sched.tail := by rfl
@[simp] theorem takeTurn_offered (s : State) : (takeTurn s).offered = s.offered := by rfl
@[simp] theorem takeTurn_rsp (s : State) : (takeTurn s).rsp = s.rsp := by rfl

/-! ### `consumeWord` -/

@[simp] theorem consumeWord_base (s : State) : (consumeWord s).base = s.base := by rfl
@[simp] theorem consumeWord_us (s : State) : (consumeWord s).us = s.us := by rfl
@[simp] theorem consumeWord_run (s : State) : (consumeWord s).run = s.run := by rfl
@[simp] theorem consumeWord_depth (s : State) : (consumeWord s).depth = s.depth := by rfl
@[simp] theorem consumeWord_im (s : State) : (consumeWord s).im = s.im := by rfl
@[simp] theorem consumeWord_armed (s : State) : (consumeWord s).armed = s.armed := by rfl
@[simp] theorem consumeWord_icnt (s : State) : (consumeWord s).icnt = s.icnt := by rfl
@[simp] theorem consumeWord_pend (s : State) : (consumeWord s).pend = s.pend := by rfl
@[simp] theorem consumeWord_target (s : State) : (consumeWord s).target = s.target := by rfl
@[simp] theorem consumeWord_seq (s : State) : (consumeWord s).seq = s.seq := by rfl
@[simp] theorem consumeWord_sched (s : State) : (consumeWord s).sched = s.sched := by rfl
@[simp] theorem consumeWord_offered (s : State) : (consumeWord s).offered = s.offered.tail := by rfl
@[simp] theorem consumeWord_rsp (s : State) : (consumeWord s).rsp = s.rsp := by rfl

/-! ### `usecBodyWith` -/

@[simp] theorem usecBodyWith_base (p : Micros) (s : State) : (usecBodyWith p s).base = s.base := by rfl
@[simp] theorem usecBodyWith_us (p : Micros) (s : State) : (usecBodyWith p s).us = if s.run then s.us + 1#32 else s.us := by rfl
@[simp] theorem usecBodyWith_run (p : Micros) (s : State) : (usecBodyWith p s).run = s.run := by rfl
@[simp] theorem usecBodyWith_depth (p : Micros) (s : State) : (usecBodyWith p s).depth = s.depth := by rfl
@[simp] theorem usecBodyWith_im (p : Micros) (s : State) : (usecBodyWith p s).im = s.im := by rfl
@[simp] theorem usecBodyWith_armed (p : Micros) (s : State) : (usecBodyWith p s).armed = s.armed := by rfl
@[simp] theorem usecBodyWith_icnt (p : Micros) (s : State) :
    (usecBodyWith p s).icnt =
      if s.armed then (if intervalElapses p s.icnt then 0#32 else s.icnt + 1#32) else s.icnt := by rfl
@[simp] theorem usecBodyWith_pend (p : Micros) (s : State) :
    (usecBodyWith p s).pend =
      if s.armed then (if intervalElapses p s.icnt then true else s.pend) else s.pend := by rfl
@[simp] theorem usecBodyWith_target (p : Micros) (s : State) : (usecBodyWith p s).target = s.target := by rfl
@[simp] theorem usecBodyWith_seq (p : Micros) (s : State) : (usecBodyWith p s).seq = s.seq := by rfl
@[simp] theorem usecBodyWith_sched (p : Micros) (s : State) : (usecBodyWith p s).sched = s.sched := by rfl
@[simp] theorem usecBodyWith_offered (p : Micros) (s : State) : (usecBodyWith p s).offered = s.offered := by rfl
@[simp] theorem usecBodyWith_rsp (p : Micros) (s : State) : (usecBodyWith p s).rsp = s.rsp := by rfl

/-! ### `resetBody` -/

@[simp] theorem resetBody_base (s : State) : (resetBody s).base = 0#32 := by rfl
@[simp] theorem resetBody_us (s : State) : (resetBody s).us = 0#32 := by rfl
@[simp] theorem resetBody_run (s : State) : (resetBody s).run = false := by rfl
@[simp] theorem resetBody_depth (s : State) : (resetBody s).depth = 0#Config.depthWidth := by rfl
@[simp] theorem resetBody_im (s : State) : (resetBody s).im = false := by rfl
@[simp] theorem resetBody_armed (s : State) : (resetBody s).armed = false := by rfl
@[simp] theorem resetBody_icnt (s : State) : (resetBody s).icnt = 0#32 := by rfl
@[simp] theorem resetBody_pend (s : State) : (resetBody s).pend = false := by rfl
@[simp] theorem resetBody_target (s : State) : (resetBody s).target = 0#32 := by rfl
@[simp] theorem resetBody_seq (s : State) : (resetBody s).seq = .idle := by rfl
@[simp] theorem resetBody_sched (s : State) : (resetBody s).sched = s.sched := by rfl
@[simp] theorem resetBody_offered (s : State) : (resetBody s).offered = s.offered := by rfl
@[simp] theorem resetBody_rsp (s : State) : (resetBody s).rsp = none := by rfl

end Sys2Proof.Machine
end

