-- ==== Sys2Proof/Laws/Ops.lean ====
section
/-!
SUPPORT. Laws/Ops: one lemma for each shared operation, saying all it does; provers cite these instead of unfolding the operation.
-/

namespace Sys2Proof.Machine

/-! ### Arithmetic -/

theorem depth_add_one_sub_one (d : Depth) : d + 1#Config.depthWidth - 1#Config.depthWidth = d := by simp

@[simp] theorem depthIsZero_iff (d : Depth) : depthIsZero d = true ↔ d = 0#Config.depthWidth := by simp [depthIsZero]

/-- The mask that an enter and an exit in one step leave: set iff DEPTH is not 0. -/
theorem not_depthIsZero (d : Depth) : (!depthIsZero d) = decide (d ≠ 0#Config.depthWidth) := (decide_not (p := d = 0#Config.depthWidth)).symm

@[simp] theorem deltaIsZero_iff (r : Delta) : deltaIsZero r = true ↔ r = 0#16 := by simp [deltaIsZero]

@[simp] theorem dueOrPast_iff (d : Tick) : dueOrPast d = true ↔ d.toInt ≤ 0 := decide_eq_true_iff

@[simp] theorem withinCheckThreshold_iff (r : Delta) : withinCheckThreshold r = true ↔ r.toNat < 2 := by
  simp [withinCheckThreshold, Config.checkThreshold]

@[simp] theorem elapsedTicks_zero : elapsedTicks 0#32 = 0#32 := by decide

/-- In the nominal range the shift is a division (R71). -/
theorem elapsedTicks_toNat {us : Micros} (h : us.toNat < 2 ^ 31) : (elapsedTicks us).toNat = us.toNat / 64 := by
  have hm : us.msb = false := by rw [BitVec.msb_eq_decide]; simpa using h
  simp [elapsedTicks, sra32, Config.tickShift, BitVec.sshiftRight_eq_of_msb_false hm, Nat.shiftRight_eq_div_pow]

/-- The signed reading of a tick value (R6). -/
theorem tick_toInt (d : Tick) : d.toInt = if 2 * d.toNat < 4294967296 then (d.toNat : Int) else d.toNat - 4294967296 :=
  BitVec.toInt_eq_toNat_cond d

/-- `d[31:16] != 0` of a positive distance says that it exceeds 16 bits (R80). -/
theorem beyondHorizon_iff (d : Tick) : beyondHorizon d = true ↔ 65536 ≤ d.toNat := by
  simp only [beyondHorizon, ne_eq, decide_not, Bool.not_eq_true', decide_eq_false_iff_not]
  rw [← BitVec.toNat_inj]
  simp only [BitVec.extractLsb'_toNat, Nat.shiftRight_eq_div_pow, BitVec.toNat_ofNat]
  have := Config.tick_lt d
  simp only [Config.tickWidth, Config.deltaWidth]
  omega

/-- The comparison of `delta_body` is saturation to 0 and to 65535 (R80). -/
theorem saturateDistance_toNat (d : Tick) :
    ((saturateDistance d).toNat : Int) = min (max d.toInt 0) 65535 := by
  have hlt := Config.tick_lt d
  have hcond := tick_toInt d
  unfold saturateDistance
  by_cases h0 : d.toInt ≤ 0
  · rw [if_pos ((dueOrPast_iff d).2 h0)]; simp; omega
  · rw [if_neg (mt (dueOrPast_iff d).1 h0)]
    by_cases h1 : 65536 ≤ d.toNat
    · rw [if_pos ((beyondHorizon_iff d).2 h1)]
      have hf : (Config.farFuture).toNat = 65535 := by decide
      rw [hf]
      split at hcond <;> omega
    · rw [if_neg (mt (beyondHorizon_iff d).1 h1)]
      simp only [trunc16, BitVec.extractLsb'_toNat, Nat.shiftRight_zero, Config.two_pow_deltaWidth]
      split at hcond <;> omega

theorem saturateDistance_eq_zero_iff (d : Tick) : saturateDistance d = 0#16 ↔ d.toInt ≤ 0 := by
  have h := saturateDistance_toNat d
  rw [← BitVec.toNat_inj]
  simp only [BitVec.toNat_ofNat, Nat.zero_mod]
  omega

/-! ### Bodies -/

@[simp] theorem nowValue_respond (v : RspWord) (s : State) : nowValue (respond v s) = nowValue s := by rfl
@[simp] theorem nowValue_noResponse (s : State) : nowValue (noResponse s) = nowValue s := by rfl
@[simp] theorem nowValue_enterBody (s : State) : nowValue (enterBody s) = nowValue s := by rfl
@[simp] theorem nowValue_exitBody (s : State) : nowValue (exitBody s) = nowValue s := by rfl
@[simp] theorem nowValue_takeTurn (s : State) : nowValue (takeTurn s) = nowValue s := by rfl
@[simp] theorem nowValue_consumeWord (s : State) : nowValue (consumeWord s) = nowValue s := by rfl

/-- An enter and an exit in one step: DEPTH is back, and IM says whether DEPTH is 0 (R73). -/
theorem exitBody_enterBody (s : State) : exitBody (enterBody s) = { s with im := decide (s.depth ≠ 0#Config.depthWidth) } := by
  simp only [exitBody, enterBody, depth_add_one_sub_one, ← not_depthIsZero]
  cases h : depthIsZero s.depth <;> rfl

/-- `now_body`: the tick count, and the state with IM settled by DEPTH (R73). -/
theorem nowBody_eq (s : State) : nowBody s = (nowValue s, { s with im := decide (s.depth ≠ 0#Config.depthWidth) }) := by
  simp only [nowBody, exitBody_enterBody, nowValue_enterBody]

/-- `delta_body`: the saturated distance, and the state `now_body` leaves (R80). -/
theorem deltaBody_eq (target : Tick) (s : State) :
    deltaBody target s = (saturateDistance (target - nowValue s), { s with im := decide (s.depth ≠ 0#Config.depthWidth) }) := by
  simp only [deltaBody, nowBody_eq, ticksAhead]

/-- `rebase_body`: US folded into BASE and zeroed, IM settled by DEPTH, nothing else (R75). -/
theorem rebaseBody_eq (s : State) :
    rebaseBody s = { s with base := nowValue s, us := 0#32, im := decide (s.depth ≠ 0#Config.depthWidth) } := by
  simp only [rebaseBody, exitBody, enterBody, depth_add_one_sub_one, nowValue, ← not_depthIsZero]
  cases h : depthIsZero s.depth <;> rfl

/-- `Irq`: the rebase, with PEND acknowledged and no response (R104). -/
theorem takeInterrupt_eq (s : State) :
    takeInterrupt s =
      { s with base := nowValue s, us := 0#32, im := decide (s.depth ≠ 0#Config.depthWidth), pend := false, rsp := none } := by
  simp only [takeInterrupt, rebaseBody_eq, noResponse, nowValue]

/-- `Poll`: completes with response 0 exactly when the deadline is due; IM is settled by DEPTH either way (R83). -/
theorem pollBody_eq (s : State) :
    pollBody s =
      if (s.target - nowValue s).toInt ≤ 0 then
        { s with im := decide (s.depth ≠ 0#Config.depthWidth), seq := .idle, rsp := some 0#32 }
      else { s with im := decide (s.depth ≠ 0#Config.depthWidth), rsp := none } := by
  simp only [pollBody, deltaBody_eq]
  by_cases h : (s.target - nowValue s).toInt ≤ 0
  · rw [if_pos ((deltaIsZero_iff _).2 ((saturateDistance_eq_zero_iff _).2 h)), if_pos h]; rfl
  · rw [if_neg (fun c => h ((saturateDistance_eq_zero_iff _).1 ((deltaIsZero_iff _).1 c))), if_neg h]; rfl

/-- A `Poll` that finds the deadline due (R83). -/
theorem pollBody_of_due {s : State} (h : (s.target - nowValue s).toInt ≤ 0) :
    pollBody s = { s with im := decide (s.depth ≠ 0#Config.depthWidth), seq := .idle, rsp := some 0#32 } := by
  rw [pollBody_eq, if_pos h]

/-- A `Poll` that finds the deadline ahead (R83). -/
theorem pollBody_of_ahead {s : State} (h : 0 < (s.target - nowValue s).toInt) :
    pollBody s = { s with im := decide (s.depth ≠ 0#Config.depthWidth), rsp := none } := by
  rw [pollBody_eq, if_neg (by omega)]

end Sys2Proof.Machine
end

