-- ==== Sys2Proof/Laws/Step.lean ====
section
/-!
SUPPORT. Laws/Step: everything a step can do, said once. `step_cases` is the inversion lemma of `step`, `exec_cases` that of `exec`;
invariants are derived from them. `run_invariant` packages the induction over a run.
-/

namespace Sys2Proof.Machine

/-- Everything `exec` can do: it always answers a next state, and this one. -/
theorem exec_cases {i : Instr} {s t : State} (h : exec i s = .next t) :
    (i = .init ∧ t = { s with base := 0#32, run := true, armed := true, icnt := 0#32, rsp := some 0#32 }) ∨
    (i = .now ∧ t = { s with im := decide (s.depth ≠ 0#Config.depthWidth), rsp := some (nowValue s) }) ∨
    (∃ d, i = .delta d ∧
      t = { s with im := decide (s.depth ≠ 0#Config.depthWidth), rsp := some (zext32 (saturateDistance (d - nowValue s))) }) ∨
    (∃ d, i = .wait d ∧ t = { s with target := d, seq := .wait, rsp := none }) ∨
    (∃ d, i = .check d ∧
      t = { s with
        im := decide (s.depth ≠ 0#Config.depthWidth)
        rsp := some (if withinCheckThreshold (saturateDistance (d - nowValue s)) then 1#32 else 0#32) }) ∨
    (i = .enter ∧ t = { s with im := true, depth := s.depth + 1#Config.depthWidth, rsp := some 0#32 }) ∨
    (i = .exit ∧
      t = { s with
        depth := s.depth - 1#Config.depthWidth
        im := if depthIsZero (s.depth - 1#Config.depthWidth) then false else s.im
        rsp := some 0#32 }) ∨
    (i = .fail ∧ t = { s with seq := .halt, rsp := none }) := by
  cases i with
  | init => exact .inl ⟨rfl, (Host.Outcome.next.inj h).symm⟩
  | now =>
    refine .inr (.inl ⟨rfl, ?_⟩)
    simp only [exec, execNow, nowBody_eq] at h
    exact (Host.Outcome.next.inj h).symm
  | delta d =>
    refine .inr (.inr (.inl ⟨d, rfl, ?_⟩))
    simp only [exec, execDelta, deltaBody_eq] at h
    exact (Host.Outcome.next.inj h).symm
  | wait d => exact .inr (.inr (.inr (.inl ⟨d, rfl, (Host.Outcome.next.inj h).symm⟩)))
  | check d =>
    refine .inr (.inr (.inr (.inr (.inl ⟨d, rfl, ?_⟩))))
    simp only [exec, execCheck, deltaBody_eq] at h
    exact (Host.Outcome.next.inj h).symm
  | enter => exact .inr (.inr (.inr (.inr (.inr (.inl ⟨rfl, (Host.Outcome.next.inj h).symm⟩)))))
  | exit => exact .inr (.inr (.inr (.inr (.inr (.inr (.inl ⟨rfl, (Host.Outcome.next.inj h).symm⟩))))))
  | fail => exact .inr (.inr (.inr (.inr (.inr (.inr (.inr ⟨rfl, (Host.Outcome.next.inj h).symm⟩))))))

/-- NOW, said forwards: the tick count responded, IM settled by DEPTH (R74). -/
theorem exec_now (s : State) :
    exec .now s = .next { s with im := decide (s.depth ≠ 0#Config.depthWidth), rsp := some (nowValue s) } := by
  simp only [exec, execNow, nowBody_eq]; rfl

/-- DELTA, said forwards (R81). -/
theorem exec_delta (d : Tick) (s : State) :
    exec (.delta d) s =
      .next { s with
        im := decide (s.depth ≠ 0#Config.depthWidth)
        rsp := some (zext32 (saturateDistance (d - nowValue s))) } := by
  simp only [exec, execDelta, deltaBody_eq]; rfl

/-- CHECK, said forwards (R85). -/
theorem exec_check (d : Tick) (s : State) :
    exec (.check d) s =
      .next { s with
        im := decide (s.depth ≠ 0#Config.depthWidth)
        rsp := some (if withinCheckThreshold (saturateDistance (d - nowValue s)) then 1#32 else 0#32) } := by
  simp only [exec, execCheck, deltaBody_eq]; rfl

/-- A WAIT and a microsecond commute: the ten registers hold no trace of which came first (R10), so no step can treat a WAIT issued
before US's sign bit otherwise than one issued at it (log entry 24). -/
theorem wait_usec_commute (d : Tick) (s : State) :
    ∃ t, exec (.wait d) s = .next t ∧ exec (.wait d) (usecBody s) = .next (usecBody t) := ⟨_, rfl, rfl⟩

/-- An enabled step is the performance of its kind. -/
theorem step_of_enabled {s : State} {k : StepKind} (hk : nextKind s = k) (he : enabled k s = true) :
    step s = perform k (takeTurn s) := by
  subst hk; unfold step advance; rw [if_pos he]

/-- `step` performs the next agent's step, and only where that is enabled. -/
theorem step_eq_next {s t : State} (h : step s = .next t) :
    enabled (nextKind s) s = true ∧ perform (nextKind s) (takeTurn s) = .next t := by
  unfold step advance at h
  split at h
  · exact ⟨‹_›, h⟩
  · cases h

/-- Everything `step` can do where it answers a next state: one of the five kinds of step, each where it is enabled (R8). -/
theorem step_cases {s t : State} (h : step s = .next t) :
    (nextKind s = .reset ∧ t = resetBody (takeTurn s)) ∨
    (nextKind s = .usec ∧ t = usecBody (takeTurn s)) ∨
    (nextKind s = .irq ∧ s.pend = true ∧ s.im = false ∧ t = takeInterrupt (takeTurn s)) ∨
    (nextKind s = .cmd ∧ s.seq = .idle ∧ ∃ w ws, s.offered = w :: ws ∧
      execWord w (consumeWord (takeTurn s)) = .next t) ∨
    (nextKind s = .poll ∧ s.seq = .wait ∧ t = pollBody (takeTurn s)) := by
  obtain ⟨he, hp⟩ := step_eq_next h
  cases hk : nextKind s with
  | reset => rw [hk] at hp; exact .inl ⟨rfl, (Host.Outcome.next.inj hp).symm⟩
  | usec => rw [hk] at hp; exact .inr (.inl ⟨rfl, (Host.Outcome.next.inj hp).symm⟩)
  | irq =>
    rw [hk] at he hp
    have he' : s.pend = true ∧ s.im = false := by simpa [enabled] using he
    exact .inr (.inr (.inl ⟨rfl, he'.1, he'.2, (Host.Outcome.next.inj hp).symm⟩))
  | cmd =>
    rw [hk] at he hp
    have hs : s.seq = .idle := (by simpa [enabled, State.cmdReady] using he : _ ∧ _).2
    refine .inr (.inr (.inr (.inl ⟨rfl, hs, ?_⟩)))
    cases ho : s.offered with
    | nil => simp [enabled, State.cmdValid, ho] at he
    | cons w ws =>
      refine ⟨w, ws, rfl, ?_⟩
      simpa [perform, performCmd, ho] using hp
  | poll =>
    rw [hk] at he hp
    exact .inr (.inr (.inr (.inr ⟨rfl, by simpa [enabled] using he, (Host.Outcome.next.inj hp).symm⟩)))

/-- Everything `execWord` can do where it answers a next state (R44, R45). -/
theorem execWord_cases {w : CmdWord} {s t : State} (h : execWord w s = .next t) :
    (∃ i, decode w = .ok i ∧ exec i s = .next t) ∨ (∃ r, decode w = .error r ∧ t = noResponse s) := by
  unfold execWord at h
  cases hd : decode w with
  | ok i => rw [hd] at h; exact .inl ⟨i, rfl, h⟩
  | error r => rw [hd] at h; exact .inr ⟨r, rfl, (Host.Outcome.next.inj h).symm⟩

/-- The instruction of an enabled `Cmd` step is the decoded word's. -/
theorem nextInstr?_eq {s : State} {w : CmdWord} {ws : List CmdWord} {i : Instr} (hk : nextKind s = .cmd)
    (hs : s.seq = .idle) (ho : s.offered = w :: ws) (hd : decode w = .ok i) : Safety.nextInstr? s = some i := by
  simp [Safety.nextInstr?, Safety.nextWord?, hk, hs, ho, hd, Except.toOption]

/-! ### Runs -/

/-- A run of one step more, where the first step is known. -/
theorem run_succ_of_next {M : Host.Core} {s t : M.State} (n : Nat) (h : M.step s = .next t) :
    M.run (n + 1) s = M.run n t := by
  rw [Host.Core.run, h]

/-- A run goes on where an earlier part of it ended. -/
theorem run_add {M : Host.Core} {s t : M.State} (a b : Nat) (h : M.run a s = .next t) :
    M.run (a + b) s = M.run b t := by
  induction a generalizing s with
  | zero => cases h; rw [Nat.zero_add]
  | succ a ih =>
    cases hs : M.step s with
    | next s' =>
      rw [run_succ_of_next a hs] at h
      rw [Nat.add_right_comm, run_succ_of_next (a + b) hs]
      exact ih h
    | fault r => rw [Host.Core.run, hs] at h; cases h
    | refused r => rw [Host.Core.run, hs] at h; cases h

/-- What every step keeps, every run keeps. -/
theorem run_invariant (M : Host.Core) (Inv : M.State → Prop)
    (hstep : ∀ s t, Inv s → M.step s = .next t → Inv t) :
    ∀ (n : Nat) (s t : M.State), Inv s → M.run n s = .next t → Inv t := by
  intro n
  induction n with
  | zero => intro s t hi h; cases h; exact hi
  | succ n ih =>
    intro s t hi h
    unfold Host.Core.run at h
    split at h
    · exact ih _ _ (hstep _ _ hi ‹_›) h
    · cases h
    · cases h

end Sys2Proof.Machine
end

