-- ==== Sys2Proof/Laws/Fairness.lean ====
section
/-!
SUPPORT. Laws/Fairness: how the registers move along a run without end, and that from every state a fair one exists.
-/

namespace Sys2Proof.Machine

/-! ### `sameBlock`, field by field -/

variable {t s' : State}

theorem sameBlock.base_eq (h : sameBlock t s') : s'.base = t.base := by rw [h]
theorem sameBlock.us_eq (h : sameBlock t s') : s'.us = t.us := by rw [h]
theorem sameBlock.run_eq (h : sameBlock t s') : s'.run = t.run := by rw [h]
theorem sameBlock.depth_eq (h : sameBlock t s') : s'.depth = t.depth := by rw [h]
theorem sameBlock.im_eq (h : sameBlock t s') : s'.im = t.im := by rw [h]
theorem sameBlock.armed_eq (h : sameBlock t s') : s'.armed = t.armed := by rw [h]
theorem sameBlock.icnt_eq (h : sameBlock t s') : s'.icnt = t.icnt := by rw [h]
theorem sameBlock.pend_eq (h : sameBlock t s') : s'.pend = t.pend := by rw [h]
theorem sameBlock.target_eq (h : sameBlock t s') : s'.target = t.target := by rw [h]
theorem sameBlock.seq_eq (h : sameBlock t s') : s'.seq = t.seq := by rw [h]
theorem sameBlock.rsp_eq (h : sameBlock t s') : s'.rsp = t.rsp := by rw [h]

theorem sameBlock.nowValue_eq (h : sameBlock t s') : nowValue s' = nowValue t := by
  simp only [nowValue, h.base_eq, h.us_eq]

/-! ### Fair runs exist -/

/-- One fair way to choose the agents, by turns: the foreground, the interrupt controller, time; an agent that is not enabled leaves
its turn to time. It serves to show that fair runs exist. -/
def turnOf (n : Nat) (s : State) : StepKind :=
  if n % 3 = 0 ∧ enabled .poll s then .poll else if n % 3 = 1 ∧ enabled .irq s then .irq else .usec

/-- The state with turn n's agent chosen and no word offered. -/
def scheduleTurn (n : Nat) (s : State) : State := { s with sched := [turnOf n s], offered := [] }

/-- The run by turns from a state. -/
def runByTurns (s : State) : Nat → State
  | 0 => scheduleTurn 0 s
  | n + 1 =>
    match step (runByTurns s n) with
    | .next t => scheduleTurn (n + 1) t
    | .fault _ => runByTurns s n
    | .refused _ => runByTurns s n

/-- The step of a turn is enabled. -/
theorem step_scheduleTurn (n : Nat) (s : State) : ∃ t, step (scheduleTurn n s) = .next t := by
  have hk : nextKind (scheduleTurn n s) = turnOf n s := rfl
  unfold turnOf at hk
  split at hk
  · next h => exact ⟨_, step_of_enabled hk h.2⟩
  · split at hk
    · next h => exact ⟨_, step_of_enabled hk h.2⟩
    · exact ⟨_, step_of_enabled hk rfl⟩

/-- Every state of the run by turns is some state with that turn's agent chosen. -/
theorem runByTurns_eq_scheduleTurn (s : State) (n : Nat) : ∃ u, runByTurns s n = scheduleTurn n u := by
  induction n with
  | zero => exact ⟨s, rfl⟩
  | succ n ih =>
    obtain ⟨u, hu⟩ := ih
    obtain ⟨t, ht⟩ := step_scheduleTurn n u
    exact ⟨t, by rw [runByTurns, hu, ht]⟩

theorem runByTurns_execution (s : State) : Execution (runByTurns s) := by
  intro n
  obtain ⟨u, hu⟩ := runByTurns_eq_scheduleTurn s n
  obtain ⟨t, ht⟩ := step_scheduleTurn n u
  refine ⟨t, hu ▸ ht, ?_⟩
  rw [runByTurns, hu, ht]
  rfl

/-- On its own turn an agent that is enabled moves; the third turn is always time's. -/
theorem nextKind_runByTurns (s : State) (n : Nat) :
    (n % 3 = 0 → (runByTurns s n).seq = .wait → nextKind (runByTurns s n) = .poll) ∧
    (n % 3 = 1 → (runByTurns s n).pend = true → (runByTurns s n).im = false → nextKind (runByTurns s n) = .irq) ∧
    (n % 3 = 2 → nextKind (runByTurns s n) = .usec) := by
  obtain ⟨u, hu⟩ := runByTurns_eq_scheduleTurn s n
  rw [hu]
  refine ⟨fun h hs => ?_, fun h hp hi => ?_, fun h => ?_⟩ <;> show turnOf n u = _ <;> unfold turnOf
  · rw [if_pos ⟨h, decide_eq_true hs⟩]
  · have hp : u.pend = true := hp
    have hi : u.im = false := hi
    rw [if_neg (by omega), if_pos ⟨h, by simp [enabled, hp, hi]⟩]
  · rw [if_neg (by omega), if_neg (by omega)]

theorem nextKind_runByTurns_ne_reset (s : State) (n : Nat) : nextKind (runByTurns s n) ≠ .reset := by
  obtain ⟨u, hu⟩ := runByTurns_eq_scheduleTurn s n
  rw [hu]
  show turnOf n u ≠ .reset
  unfold turnOf
  split
  · decide
  · split <;> decide

/-- R113's assumptions are met by some run from every state. -/
theorem runByTurns_fair (s : State) : Fair (runByTurns s) where
  time n := ⟨3 * n + 2, by omega, (nextKind_runByTurns s _).2.2 (by omega)⟩
  poll n h k := ⟨3 * (n + k), by omega, (nextKind_runByTurns s _).1 (by omega) (h _ (by omega))⟩
  irq n h :=
    ⟨3 * n + 1, by omega, (nextKind_runByTurns s _).2.1 (by omega) (h _ (by omega)).1 (h _ (by omega)).2⟩

end Sys2Proof.Machine
end

