-- ==== Sys2Proof/Laws/PerInstr.lean ====
section
/-!
SUPPORT. Laws/PerInstr: statements made of every instruction as syntax, one lemma for each constructor.
-/

namespace Sys2Proof.Laws.FormatC

/-- The word of an instruction has the fields the opcode map gives it, and those fields pass both checks (R40, R42, R43). -/
def Statement (i : Instr) : Prop :=
  splitFields (encode i) = encodeFields i ∧ (encodeFields i).wellFormed = true

theorem init : Statement .init := ⟨splitFields_joinFields _, rfl⟩
theorem now : Statement .now := ⟨splitFields_joinFields _, rfl⟩
theorem delta (target : Tick) : Statement (.delta target) := ⟨splitFields_joinFields _, rfl⟩
theorem wait (target : Tick) : Statement (.wait target) := ⟨splitFields_joinFields _, rfl⟩
theorem check (target : Tick) : Statement (.check target) := ⟨splitFields_joinFields _, rfl⟩
theorem enter : Statement .enter := ⟨splitFields_joinFields _, rfl⟩
theorem exit : Statement .exit := ⟨splitFields_joinFields _, rfl⟩
theorem fail : Statement .fail := ⟨splitFields_joinFields _, rfl⟩

end Sys2Proof.Laws.FormatC
end

