-- ==== Sys2Proof/Tests/Slice0.lean ====
section
/-!
SUPPORT. Tests/Slice0: the model's own tests, one step each, with every expected value taken from the spec (its `95_test_vectors.md` unless a
comment says otherwise), and for every obligation with hypotheses a state that meets them all, at the boundaries of its clauses.
-/

namespace Sys2Proof.Tests

open Sys2Proof.Machine Sys2Proof.Safety

/-! ### States -/

/-- The state an answer goes on in. -/
def after : Answer → Option State
  | .next t => some t
  | .fault _ => none
  | .refused _ => none

/-- Why an answer refuses. -/
def refusal : Answer → Option Refusal
  | .next _ => none
  | .fault _ => none
  | .refused r => some r

/-- Why an answer faults. -/
def faulted : Answer → Option Fault
  | .next _ => none
  | .fault r => some r
  | .refused _ => none

/-- The running state: the reset state after INIT (§0). -/
def running : State := { State.reset with run := true, armed := true }

/-- The running state with the given BASE and US. -/
def clockAt (base : Tick) (us : Micros) : State := { running with base := base, us := us }

/-- The running state with the given DEPTH and IM. -/
def nestedAt (depth : Depth) (im : Bool) : State := { running with depth := depth, im := im }

/-- The running state with the next step scheduled. -/
def withStep (k : StepKind) (s : State) : State := { s with sched := [k] }

/-- A state in which the next step is the `Cmd` step on a word. -/
def withWord (w : CmdWord) (s : State) : State := { s with sched := [.cmd], offered := [w], seq := .idle }

/-- A WAIT in progress, with the next step a `Poll`. -/
def waiting (target : Tick) (us : Micros) : State :=
  { clockAt 0#32 us with target := target, seq := .wait, sched := [.poll] }

/-- The start state of S6: a rebase pending, 70 microseconds late. -/
def rebaseDue : State :=
  { clockAt 1000#32 10000070#32 with icnt := 70#32, pend := true, sched := [.irq] }

/-! ### Well-formedness: an ill-formed term for each check -/

theorem test_opcode_zero_refused : (Fields.mk 0x00#8 0#32).opcodeAssigned = false := by decide
theorem test_opcode_nine_refused : (Fields.mk 0x09#8 0#32).wellFormed = false := by decide
theorem test_now_with_operand_refused : (Fields.mk 0x02#8 1#32).argAllowed = false := by decide
theorem test_exit_with_operand_refused : (Fields.mk 0x07#8 0x100#32).wellFormed = false := by decide
theorem test_delta_operand_accepted : (Fields.mk 0x03#8 0xFFFFFFFF#32).wellFormed = true := by decide

/-! ### Decoding: words written out from R40 and R42, 8 bits of `op` and then 32 of `arg` -/

theorem test_decode_init : decode 0b0000000100000000000000000000000000000000#40 = .ok .init := by decide
theorem test_decode_now : decode 0b0000001000000000000000000000000000000000#40 = .ok .now := by decide
theorem test_decode_delta :
    decode 0b0000001100000000000000010001000101110000#40 = .ok (.delta 70000#32) := by decide
theorem test_decode_wait :
    decode 0b0000010000000000000000000000000001100100#40 = .ok (.wait 100#32) := by decide
theorem test_decode_check :
    decode 0b0000010110000000000000000000000000000001#40 = .ok (.check 0x80000001#32) := by decide
theorem test_decode_enter : decode 0b0000011000000000000000000000000000000000#40 = .ok .enter := by decide
theorem test_decode_exit : decode 0b0000011100000000000000000000000000000000#40 = .ok .exit := by decide
theorem test_decode_fail : decode 0b0000100000000000000000000000000000000000#40 = .ok .fail := by decide

/-- V-ENC: the reserved words of its table. -/
theorem test_decode_reserved :
    [0x0000000000#40, 0x0000000001#40, 0x0900000000#40, 0x7F12345678#40, 0xFFFFFFFFFF#40, 0x0100000001#40,
     0x0200000001#40, 0x0680000000#40, 0x0700000100#40, 0x08FFFFFFFF#40].all
      (fun w => (decode w).toOption = none) = true := by decide

/-- R31: the written form, opcode byte first. -/
theorem test_decode_bytes :
    decodeBytes [0x04#8, 0x00#8, 0x00#8, 0x00#8, 0x64#8] = some (.ok (.wait 100#32)) := by decide

theorem test_decode_table_word : decodeTableWord 40 0x05FFFFFFFF = some (.check 0xFFFFFFFF#32) := by decide
theorem test_decode_table_word_short : decodeTableWord 8 0x01 = none := by decide

/-! ### Instructions, at most two small tests each -/

/-- V-TICK3, second row: a second INIT inside a critical section. -/
theorem test_init_leaves_us_and_pend :
    let s : State :=
      { State.reset with
        base := 5000#32, us := 640#32, run := true, depth := 2#8, im := true, armed := true, icnt := 777#32,
        pend := true, target := 9#32 }
    after (exec .init s) = some { s with base := 0#32, icnt := 0#32, rsp := some 0#32 } := by decide

/-- V-TICK3, first row. -/
theorem test_init_starts_clock : after (exec .init State.reset) = some { running with rsp := some 0#32 } := by decide

/-- V-TICK2: the silent wrap at 2^32. -/
theorem test_now_wraps :
    (after (exec .now (clockAt 0xFFFFFFF0#32 2048#32))).bind (·.rsp) = some 0x00000010#32 := by decide

/-- V-ARB: after a stray EXIT the time read leaves the mask set. -/
theorem test_now_masks_at_depth_255 :
    after (exec .now (nestedAt 255#8 false)) = some { nestedAt 255#8 true with rsp := some 0#32 } := by decide

/-- V-DL1: a deadline across the 2^32 wrap. -/
theorem test_delta_across_wrap :
    (after (exec (.delta 0x00000010#32) (clockAt 0xFFFFFFF0#32 0#32))).bind (·.rsp) = some 0x00000020#32 := by decide

/-- V-DL1: the half-range boundary; one tick nearer is the far future. -/
theorem test_delta_half_range :
    (after (exec (.delta 0x80001000#32) (clockAt 0x1000#32 0#32))).bind (·.rsp) = some 0#32 ∧
    (after (exec (.delta 0x80000FFF#32) (clockAt 0x1000#32 0#32))).bind (·.rsp) = some 0xFFFF#32 := by decide

/-- V-DL2, with DEPTH 0 and IM 1 to show that no evaluation happens in the `Cmd` step (R82). -/
theorem test_wait_only_latches :
    after (exec (.wait 100#32) (nestedAt 0#8 true)) =
      some { nestedAt 0#8 true with target := 100#32, seq := .wait } := by decide

/-- S4: offset 1 is within a tick. -/
theorem test_check_one_tick_ahead :
    (after (exec (.check 0x00001001#32) (clockAt 0x1000#32 0#32))).bind (·.rsp) = some 1#32 := by decide

/-- S4: offset 2 is not. -/
theorem test_check_two_ticks_ahead :
    (after (exec (.check 0x00001002#32) (clockAt 0x1000#32 0#32))).bind (·.rsp) = some 0#32 := by decide

/-- V-ARB: the deepest level covered by R64. -/
theorem test_enter_deepest :
    after (exec .enter (nestedAt 254#8 true)) = some { nestedAt 255#8 true with rsp := some 0#32 } := by decide

/-- V-ARB: the wrap of R132. -/
theorem test_enter_wraps :
    after (exec .enter (nestedAt 255#8 true)) = some { nestedAt 0#8 true with rsp := some 0#32 } := by decide

/-- V-ARB: an inner level stays masked, the last one unmasks. -/
theorem test_exit_levels :
    after (exec .exit (nestedAt 2#8 true)) = some { nestedAt 1#8 true with rsp := some 0#32 } ∧
    after (exec .exit (nestedAt 1#8 true)) = some { nestedAt 0#8 false with rsp := some 0#32 } := by decide

/-- V-ARB: a stray EXIT wraps DEPTH and does not write IM (R131). -/
theorem test_exit_stray :
    after (exec .exit (nestedAt 0#8 false)) = some { nestedAt 255#8 false with rsp := some 0#32 } := by decide

/-- V-HALT. -/
theorem test_fail_halts :
    after (exec .fail (nestedAt 1#8 true)) = some { nestedAt 1#8 true with seq := .halt } := by decide

/-! ### Steps that are no command -/

/-- V-TICK1: the sign bit (R71, `90_conflicts.md` C1). -/
theorem test_elapsed_is_arithmetic :
    elapsedTicks 0x7FFFFFFF#32 = 0x01FFFFFF#32 ∧ elapsedTicks 0x80000000#32 = 0xFE000000#32 ∧
    elapsedTicks 0x80000040#32 = 0xFE000001#32 ∧ elapsedTicks 0xFFFFFFFF#32 = 0xFFFFFFFF#32 := by decide

/-- V-TIME: the ten-millionth microsecond raises the interrupt. -/
theorem test_usec_raises :
    let s : State := { clockAt 0#32 9999999#32 with icnt := 9999999#32, sched := [.usec] }
    after (step s) = some { s with us := 10000000#32, icnt := 0#32, pend := true, sched := [] } := by decide

/-- V-TIME: before INIT a microsecond changes nothing. -/
theorem test_usec_before_init : after (step (withStep .usec State.reset)) = some State.reset := by decide

/-- S6: the rebase. -/
theorem test_irq_rebases :
    after (step rebaseDue) =
      some { rebaseDue with base := 157251#32, us := 0#32, pend := false, sched := [] } := by decide

/-- V-TICK4: a masked request waits. -/
theorem test_irq_masked :
    refusal (step { rebaseDue with depth := 1#8, im := true }) = some (.stepNotEnabled .irq) := by decide

/-- V-DL2: one microsecond short of the deadline. -/
theorem test_poll_short : after (step (waiting 100#32 6399#32)) =
    some { waiting 100#32 6399#32 with sched := [] } := by decide

/-- V-DL2: at the deadline. -/
theorem test_poll_completes : after (step (waiting 100#32 6400#32)) =
    some { waiting 100#32 6400#32 with seq := .idle, sched := [], rsp := some 0#32 } := by decide

/-- V-RST: a WAIT in progress is abandoned. -/
theorem test_reset_abandons_wait :
    after (step
      { base := 0x12345678#32, us := 999#32, run := true, depth := 7#8, im := true, armed := true, icnt := 500#32,
        pend := true, target := 42#32, seq := .wait, sched := [.reset], offered := [], rsp := none }) =
      some State.reset := by decide

/-- V-ENC: `0x08_FFFFFFFF` does not halt. -/
theorem test_reserved_word_consumed :
    after (step (withWord 0x08FFFFFFFF#40 running)) = some running := by decide

/-- R48: a word offered during a WAIT has no step. -/
theorem test_cmd_during_wait :
    refusal (step { waiting 100#32 0#32 with sched := [.cmd], offered := [0x0800000000#40] }) =
      some (.stepNotEnabled .cmd) := by decide

/-- The placed instruction is what the next step runs, from a halted machine too (log entry 7). -/
theorem test_placed_instruction_runs :
    (after (step (State.withFetchWord { running with seq := .halt } 40 0x0400000064))).map
      (fun t => (t.target, t.seq)) = some (100#32, .wait) := by decide

/-- P5 line 3 and U1: the conservative machine faults at the stray EXIT. -/
theorem test_guarded_stray_exit :
    faulted (guardedStep (withWord 0x0700000000#40 running)) = some .exitAtDepthZero := by decide

/-! ### The text form (R50, R51), on lines of P1 and P2 -/

theorem test_parse_script :
    parseScript "reset\nINIT ; boot\nusec 20\nWAIT 100\npoll\nirq\ndeltaticks 0x00011170\n" =
      some [.reset, .command .init, .usec 20, .command (.wait 100#32), .poll, .irq, .command (.delta 70000#32)] := by
  decide

theorem test_parse_refuses :
    parseScript "NOW 1" = none ∧ parseScript "WAIT" = none ∧ parseScript "DELTA 0x100000000" = none ∧
    parseScript "REBASE" = none := by decide

theorem test_load_script :
    let s := loadScript [.command .init, .usec 2, .command (.wait 100#32), .poll] State.reset
    s.sched = [.cmd, .usec, .usec, .cmd, .poll] ∧ s.offered = [0x0100000000#40, 0x0400000064#40] := by decide

/-! ### Witnesses: for each obligation with hypotheses, concrete states and operands that meet them all

An obligation whose only hypothesis is that `step` (or `exec`) answers a next state is met by the steps of each kind below; a stopped
machine steps nowhere, so these are listed once, in `witness_step_of_each_kind` and `witness_exec_of_each_instruction`. -/

/-- For `SequencerFollowsItsTransitionTable`, `RegistersChangeOnlyInTheirWriters`, `OneResponseWhenACommandCompletes`,
`OfferedWordWaitsUntilIdle` and the enabled halves of `StepHappensExactlyWhereEnabled`. -/
theorem witness_step_of_each_kind :
    (∃ t, step (withStep .reset running) = .next t) ∧
    (∃ t, step (withStep .usec running) = .next t) ∧
    (nextKind rebaseDue = .irq ∧ ∃ t, step rebaseDue = .next t) ∧
    (∃ t, step (withWord 0x0200000000#40 running) = .next t) ∧
    (∃ t, step (waiting 100#32 6399#32) = .next t ∧ t.seq = .wait) ∧
    (∃ t, step (waiting 100#32 6400#32) = .next t ∧ t.seq = .idle) :=
  ⟨⟨_, rfl⟩, ⟨_, rfl⟩, ⟨rfl, _, rfl⟩, ⟨_, rfl⟩, ⟨_, rfl, rfl⟩, ⟨_, rfl, rfl⟩⟩

/-- For `ResponseValuesFollowTheTable`, `EnterMasksAndCountsUp`, `FailHaltsTheForeground` and every statement on `exec i s = .next t`. -/
theorem witness_exec_of_each_instruction :
    (∃ t, exec .init running = .next t) ∧ (∃ t, exec .now running = .next t) ∧
    (∃ t, exec (.delta 5#32) running = .next t) ∧ (∃ t, exec (.wait 5#32) running = .next t) ∧
    (∃ t, exec (.check 5#32) running = .next t) ∧ (∃ t, exec .enter running = .next t) ∧
    (∃ t, exec .exit running = .next t) ∧ (∃ t, exec .fail running = .next t) :=
  ⟨⟨_, rfl⟩, ⟨_, rfl⟩, ⟨_, rfl⟩, ⟨_, rfl⟩, ⟨_, rfl⟩, ⟨_, rfl⟩, ⟨_, rfl⟩, ⟨_, rfl⟩⟩

/-- For the disabled halves of `StepHappensExactlyWhereEnabled`, and `OfferedWordWaitsUntilIdle`'s second clause in WAIT and HALT. -/
theorem witness_steps_not_enabled :
    refusal (step (withStep .irq running)) = some (.stepNotEnabled .irq) ∧
    refusal (step (withStep .cmd running)) = some (.stepNotEnabled .cmd) ∧
    refusal (step (withStep .poll running)) = some (.stepNotEnabled .poll) ∧
    (let s := { waiting 1#32 0#32 with sched := [.cmd] }; nextKind s = .cmd ∧ s.seq ≠ .idle) ∧
    (let s := withStep .cmd { running with seq := .halt }; nextKind s = .cmd ∧ s.seq ≠ .idle) := by decide

/-- For `ReservedWordsAreConsumedWithoutEffect`: a word of each part of the reserved space, at the boundaries of the opcode map. -/
theorem witness_reserved_words :
    ∀ w ∈ [0x0000000000#40, 0x0900000000#40, 0xFFFFFFFFFF#40, 0x0100000001#40, 0x0800000001#40],
      nextKind (withWord w running) = .cmd ∧ (withWord w running).seq = .idle ∧
      (withWord w running).offered = w :: [] ∧ ∃ r, decode w = .error r := by
  intro w hw
  simp only [List.mem_cons, List.not_mem_nil, or_false] at hw
  rcases hw with rfl | rfl | rfl | rfl | rfl <;> exact ⟨rfl, rfl, rfl, _, rfl⟩

/-- For `WrittenBytesReadBackAsTheWord`: lists of other lengths, next to 5. -/
theorem witness_wrong_byte_counts :
    (List.replicate 4 (0#8)).length ≠ 5 ∧ (List.replicate 6 (0#8)).length ≠ 5 := by decide

/-- For `StepRunsTheDecodedInstruction`, both clauses. -/
theorem witness_decoded_instruction :
    nextKind (withWord 0x0300000005#40 running) = .cmd ∧ (withWord 0x0300000005#40 running).seq = .idle ∧
    (withWord 0x0300000005#40 running).offered = 0x0300000005#40 :: [] ∧
    decode 0x0300000005#40 = .ok (.delta 5#32) ∧ decodeTableWord 40 0x0300000005 = some (.delta 5#32) := by decide

/-- For `ResponseValuesFollowTheTable`, the clauses on a completing `Poll` and on a reserved word. -/
theorem witness_responses :
    (∃ t, step (waiting 100#32 6400#32) = .next t ∧ (waiting 100#32 6400#32).seq = .wait ∧
      nextKind (waiting 100#32 6400#32) = .poll ∧ t.seq = .idle) ∧
    (decode 0x0900000000#40 = .error (.unassignedOpcode 0x09#8) ∧ ∃ t, execWord 0x0900000000#40 running = .next t) :=
  ⟨⟨_, rfl, rfl, rfl, rfl⟩, rfl, _, rfl⟩

/-- For `EnterMasksAndCountsUp`: the step after an ENTER, a request pending. -/
theorem witness_entered :
    let s := { running with pend := true, sched := [.usec] }
    ∃ t, exec .enter s = .next t ∧ (∃ u, step t = .next u) ∧ nextKind t ≠ .reset ∧ t.pend = true :=
  ⟨_, rfl, ⟨_, rfl⟩, by decide, rfl⟩

/-- For `ExitCountsDownAndUnmasksAtZero`: the last level, with a request pending. -/
theorem witness_unmasking_exit :
    let s := { nestedAt 1#8 true with pend := true }
    (∃ t, exec .exit s = .next t) ∧ s.depth = 1#Config.depthWidth ∧ s.pend = true := ⟨⟨_, rfl⟩, rfl, rfl⟩

/-- For `NestedSectionsUnmaskOnlyAtTheLastExit`: the least N with no EXIT and with its one EXIT, and the greatest N with k < N and
with k = N. -/
theorem witness_nesting :
    ∀ p ∈ [(1, 0), (1, 1), (255, 254), (255, 255)],
      let s : State :=
        { State.reset with
          sched := List.replicate (p.1 + p.2) .cmd
          offered := List.replicate p.1 (encode .enter) ++ (List.replicate p.2 (encode .exit) ++ []) }
      1 ≤ p.1 ∧ p.1 ≤ 2 ^ Config.depthWidth - 1 ∧ p.2 ≤ p.1 ∧ s.depth = 0#Config.depthWidth ∧ s.im = false ∧
      s.seq = .idle ∧ s.sched = List.replicate (p.1 + p.2) .cmd ++ [] := by
  intro p hp
  simp only [List.mem_cons, List.not_mem_nil, or_false] at hp
  rcases hp with rfl | rfl | rfl | rfl <;> exact ⟨by decide, by decide, by decide, rfl, rfl, rfl, (List.append_nil _).symm⟩

/-- For `MaskHoldsOffTheRebase`: masked, a request pending; the `Irq` clause, and a step that is neither `Reset` nor INIT. -/
theorem witness_masked :
    let s := { nestedAt 1#8 true with pend := true }
    (s.im = true ∧ s.pend = true) ∧ nextKind (withStep .irq s) = .irq ∧
    (∃ t, step (withStep .usec s) = .next t) ∧ nextKind (withStep .usec s) ≠ .reset ∧
    nextInstr? (withStep .usec s) ≠ some .init := ⟨by decide, rfl, ⟨_, rfl⟩, by decide, by decide⟩

/-- For `InitStartsTheClock`: the first INIT. -/
theorem witness_first_init :
    (∃ t, exec .init State.reset = .next t) ∧ State.reset.us = 0#32 := ⟨⟨_, rfl⟩, rfl⟩

/-- For `ElapsedTicksDividesBySixtyFour`: either side of the sign bit. -/
theorem witness_sign_bit :
    (0x7FFFFFFF#32).toNat < 2 ^ 31 ∧ 2 ^ 31 ≤ (0x80000000#32).toNat := by decide

/-- For `InterruptFoldsTheCounterIntoBase`, `RebaseIsTransparent` (during a WAIT too) and `RebaseDiscardsTheSubTickRemainder`, whose bound is met up to
BASE's last value; the unbalanced state of R73's fourth row is one of `InterruptFoldsTheCounterIntoBase`'s. -/
theorem witness_rebase :
    (nextKind rebaseDue = .irq ∧ rebaseDue.pend = true ∧ rebaseDue.im = false) ∧
    (let u := { rebaseDue with depth := 255#8 }; nextKind u = .irq ∧ u.pend = true ∧ u.im = false) ∧
    (let w := { rebaseDue with seq := .wait }; nextKind w = .irq ∧ ∃ t, step w = .next t) ∧
    (∃ t a b, step rebaseDue = .next t ∧ exec .now rebaseDue = .next a ∧ exec .now t = .next b) ∧
    (let s := { rebaseDue with base := 0xFFFFFFFF#32, us := 63#32 }
     nextKind s = .irq ∧ (∃ t, step s = .next t) ∧ s.us.toNat < 2 ^ 31 ∧ s.base.toNat + s.us.toNat / 64 < 2 ^ 32) :=
  ⟨by decide, by decide, ⟨rfl, _, rfl⟩, ⟨_, _, _, rfl, rfl, rfl⟩, rfl, ⟨_, rfl⟩, by decide, by decide⟩

/-- For `ClockRunsSlowByUnderATickARebase`: S6 at the rebase, and the clock right after INIT. -/
theorem witness_time_account :
    (TimeAccount 10064070 1 rebaseDue ∧ rebaseDue.run = true ∧ UsNominal rebaseDue ∧
      rebaseDue.base.toNat + rebaseDue.us.toNat / 64 < 2 ^ 32 ∧ (∃ t, step rebaseDue = .next t) ∧
      nextKind rebaseDue ≠ .reset ∧ nextInstr? rebaseDue ≠ some .init) ∧
    ((∃ t, exec .init State.reset = .next t) ∧ State.reset.us = 0#32) :=
  ⟨⟨by unfold TimeAccount; decide, rfl, by unfold UsNominal; decide, by decide, ⟨_, rfl⟩, by decide, by decide⟩, ⟨_, rfl⟩, rfl⟩

/-- For `TickCountNeverGoesBack`: the microsecond that completes a tick, with the tick count at the last value the bound admits; and the
last microsecond of the nominal range. -/
theorem witness_tick_count :
    (let s := withStep .usec (clockAt 0xFFFFFFFE#32 63#32)
     (∃ t, step s = .next t ∧ UsNominal t) ∧ nextKind s ≠ .reset ∧ nextInstr? s ≠ some .init ∧ UsNominal s ∧
       (nowValue s).toNat < 2 ^ 32 - 1) ∧
    (let s := withStep .usec (clockAt 0#32 0x7FFFFFFE#32)
     (∃ t, step s = .next t ∧ UsNominal t) ∧ nextKind s ≠ .reset ∧ nextInstr? s ≠ some .init ∧ UsNominal s) :=
  ⟨⟨⟨_, rfl, by unfold UsNominal; decide⟩, by decide, by decide, by unfold UsNominal; decide, by decide⟩,
    ⟨_, rfl, by unfold UsNominal; decide⟩, by decide, by decide, by unfold UsNominal; decide⟩

/-- For `ClockCountsSixtyFourMicrosecondsATick`: up to the last microsecond of the nominal range. -/
theorem witness_counting :
    let s := { clockAt 7#32 0x7FFFFFFC#32 with sched := [.usec, .usec, .usec, .irq] }
    s.run = true ∧ s.us.toNat + 3 < 2 ^ 31 ∧ s.sched = List.replicate 3 .usec ++ [.irq] := by decide

/-- For `TickCountJumpsBackAtTheSignBit`: the two states, and V-TICK2's values on either side of the jump. -/
theorem witness_jump :
    (clockAt 1000#32 0x7FFFFFFF#32).run = true ∧ (clockAt 1000#32 0x7FFFFFFF#32).us = 0x7FFFFFFF#32 ∧
    (clockAt 1000#32 0xFFFFFFFF#32).us = 0xFFFFFFFF#32 ∧
    nowValue (clockAt 1000#32 0x7FFFFFFF#32) = 33555431#32 ∧
    nowValue (usecBody (clockAt 1000#32 0x7FFFFFFF#32)) = 0xFE0003E8#32 := by decide

/-- For `DeltaBodySaturatesTheSignedDistance`: each clause at its bounds, with the result V-DL1 gives. -/
theorem witness_distances :
    ∀ p ∈ [(0x80001000#32, -2147483648, 0x0000#16), (0x00001000#32, 0, 0x0000#16), (0x00001001#32, 1, 0x0001#16),
           (0x00010FFE#32, 65534, 0xFFFE#16), (0x00010FFF#32, 65535, 0xFFFF#16), (0x00011000#32, 65536, 0xFFFF#16),
           (0x80000FFF#32, 2147483647, 0xFFFF#16)],
      (p.1 - nowValue (clockAt 0x1000#32 0#32)).toInt = p.2.1 ∧
      (deltaBody p.1 (clockAt 0x1000#32 0#32)).1 = p.2.2 := by decide

/-- For `PollCompletesExactlyWhenDue`: a deadline at this tick, and one a tick ahead. -/
theorem witness_polls :
    (let s := waiting 100#32 6400#32
     nextKind s = .poll ∧ s.seq = .wait ∧ (s.target - nowValue s).toInt ≤ 0) ∧
    (let s := waiting 100#32 6399#32
     nextKind s = .poll ∧ s.seq = .wait ∧ 0 < (s.target - nowValue s).toInt) := by decide

/-- For `WaitCompletesOnceTheDeadlineIsReached`: one microsecond short of tick 100, and no microsecond at all. -/
theorem witness_wait :
    (let s := { waiting 100#32 6399#32 with sched := [.usec, .poll] }
     s.seq = .wait ∧ s.run = true ∧ s.us.toNat + 1 < 2 ^ 31 ∧ 0 < (s.target - nowValue s).toInt ∧
     s.sched = List.replicate 1 .usec ++ .poll :: [] ∧
     (s.target - nowValue s).toInt ≤ ((s.us.toNat + 1) / 64 - s.us.toNat / 64 : Nat)) ∧
    (let s := waiting 100#32 6399#32
     s.sched = List.replicate 0 .usec ++ .poll :: [] ∧
     ¬ (s.target - nowValue s).toInt ≤ ((s.us.toNat + 0) / 64 - s.us.toNat / 64 : Nat)) := by decide

/-- For `DeadlinesUnderHalfTheCycleReadAsFuture`: both sides of the half cycle. -/
theorem witness_half_cycle : (0x7FFFFFFF#32).toNat < 2 ^ 31 ∧ 2 ^ 31 ≤ (0x80000000#32).toNat := by decide

/-- For `UnreachedTargetsReadByTheHalfRange`: the bounds of its clauses, BASE being 0. -/
theorem witness_unreached :
    (let d := fun target => ((waiting target 0#32).target - (waiting target 0#32).base).toNat
     (2 ^ 25 ≤ d 0x02000000#32 ∧ d 0x02000000#32 < 2 ^ 31 - 2 ^ 25) ∧
     (2 ^ 25 ≤ d 0x7DFFFFFF#32 ∧ d 0x7DFFFFFF#32 < 2 ^ 31 - 2 ^ 25) ∧
     (2 ^ 31 - 2 ^ 25 ≤ d 0x7E000000#32 ∧ d 0x7E000000#32 < 2 ^ 32 - 2 ^ 25) ∧
     (2 ^ 31 - 2 ^ 25 ≤ d 0xFDFFFFFF#32 ∧ d 0xFDFFFFFF#32 < 2 ^ 32 - 2 ^ 25)) ∧
    (waiting 0x7E000000#32 0x80000000#32).us = 0x80000000#32 := by decide

/-- For `DueStaysDueAsTimePasses`: P3 lines 3 and 12, a tick passing. -/
theorem witness_due :
    let s := clockAt 0x1000#32 63#32
    UsNominal s ∧ UsNominal (usecBody s) ∧ 0x1001#32 - nowValue s ≠ 0x80000000#32 ∧
    (deltaBody 0x1001#32 s).1.toNat < 2 :=
  ⟨by unfold UsNominal; decide, by unfold UsNominal; decide, by decide, by decide⟩

/-- For `ResponsesDependOnTheTickCountAlone`: two states with the same tick count and nothing else in common. -/
theorem witness_same_tick_count :
    let s := clockAt 10#32 640#32
    let t : State := { State.reset with base := 20#32, depth := 3#8, im := true, target := 5#32 }
    nowValue s = nowValue t ∧ (∃ a, exec .now s = .next a) ∧ (∃ b, exec .now t = .next b) :=
  ⟨by decide, ⟨_, rfl⟩, ⟨_, rfl⟩⟩

/-- For `FailHaltsTheForeground`: a halted machine's next step, masked; and a WAIT in progress. -/
theorem witness_halted_step :
    (let s := withStep .usec { nestedAt 1#8 true with seq := .halt }
     s.seq = .halt ∧ (∃ t, step s = .next t) ∧ nextKind s ≠ .reset ∧ s.im = true) ∧
    (waiting 1#32 0#32).seq ≠ .idle := ⟨⟨rfl, ⟨_, rfl⟩, by decide, rfl⟩, by decide⟩

/-- For `HaltIsLeftOnlyByReset`: the step that leaves HALT, and two that do not. -/
theorem witness_halt :
    let s := { running with seq := .halt }
    s.seq = .halt ∧ (∃ t, step (withStep .reset s) = .next t) ∧ (∃ t, step (withStep .usec s) = .next t) ∧
    (∃ t, step { rebaseDue with seq := .halt } = .next t) := ⟨rfl, ⟨_, rfl⟩, ⟨_, rfl⟩, ⟨_, rfl⟩⟩

/-- For `UsecAdvancesTheCounters`. -/
theorem witness_usec :
    nextKind (withStep .usec running) = .usec ∧
    (∃ t, step rebaseDue = .next t) ∧ nextKind rebaseDue ≠ .usec := ⟨rfl, ⟨_, rfl⟩, by decide⟩

/-- For `InterruptIsRaisedOnceAPeriod`: the microsecond that raises, and one that does not. -/
theorem witness_raise :
    (let s := { clockAt 0#32 0#32 with icnt := 9999999#32, sched := [.usec] }
     s.armed = true ∧ s.icnt.toNat + 1 ≤ Config.rebasePeriodUs ∧ s.icnt.toNat < Config.rebasePeriodUs ∧
     s.sched = List.replicate 1 .usec ++ [] ∧ s.icnt.toNat + 1 = Config.rebasePeriodUs) ∧
    (let s := { clockAt 0#32 0#32 with icnt := 9999998#32, sched := [.usec] }
     s.armed = true ∧ s.icnt.toNat + 1 ≤ Config.rebasePeriodUs ∧ s.icnt.toNat < Config.rebasePeriodUs ∧
     s.sched = List.replicate 1 .usec ++ [] ∧ ¬ s.icnt.toNat + 1 = Config.rebasePeriodUs) := by decide

/-- For `MergedRequestsLoseNoTime`: a second raise falls between the first and its delivery. -/
theorem witness_merge :
    let s := { rebaseDue with icnt := 9999999#32, sched := [.usec, .irq] }
    s.run = true ∧ s.pend = true ∧ s.im = false ∧ s.us.toNat + 1 < 2 ^ 31 ∧
    s.sched = List.replicate 1 .usec ++ .irq :: [] := by decide

/-- For `ResetStepClearsEveryRegister`: from HALT. -/
theorem witness_reset :
    let s := { running with seq := .halt, sched := [.reset, .usec] }
    nextKind s = .reset ∧ ∃ t, step s = .next t ∧ (t.run = false ∧ t.armed = false ∧ t.pend = false) ∧
      nextInstr? t ≠ some .init ∧ ∃ u, step t = .next u :=
  ⟨rfl, _, rfl, ⟨rfl, rfl, rfl⟩, by decide, _, rfl⟩

/-- S6's state has the timer invariant, and so has a WAIT in progress before INIT. -/
theorem rebaseDue_timerInv : TimerInv rebaseDue := ⟨by decide, by decide, by decide, by decide⟩

/-- For `EveryStepKeepsTheTimerInvariant` and the invariants' step from the reset state. -/
theorem witness_timer :
    TimerInv rebaseDue ∧ ∃ t, step rebaseDue = .next t := ⟨rebaseDue_timerInv, _, rfl⟩

/-- For `IntervalCounterStaysBelowAnyPeriod`: the least and the greatest period, at their last ICNT. -/
theorem witness_periods :
    (1 ≤ (1#32).toNat ∧ (1#32).toNat < 2 ^ 31 ∧ running.icnt.toNat < (1#32).toNat) ∧
    (let s := { running with icnt := 0x7FFFFFFE#32 }
     1 ≤ (0x7FFFFFFF#32).toNat ∧ (0x7FFFFFFF#32).toNat < 2 ^ 31 ∧ s.icnt.toNat < (0x7FFFFFFF#32).toNat) := by decide

/-- For `BalancedStepsKeepMaskIffDepth`: the last ENTER and the last EXIT that balanced use admits. -/
theorem witness_balanced :
    (let s := withWord 0x0600000000#40 (nestedAt 254#8 true)
     MaskIffDepth s ∧ unbalancedNext s = false ∧ ∃ t, step s = .next t) ∧
    (let s := withWord 0x0700000000#40 (nestedAt 1#8 true)
     MaskIffDepth s ∧ unbalancedNext s = false ∧ ∃ t, step s = .next t) :=
  ⟨⟨by unfold MaskIffDepth; decide, by decide, _, rfl⟩, by unfold MaskIffDepth; decide, by decide, _, rfl⟩

/-- For `GuardedStepIsStepShortOfTheHazards`: a step it makes, and each hazard in the state where the conservative machine stops. -/
theorem witness_guarded :
    (∃ t, guardedStep (withWord 0x0200000000#40 running) = .next t) ∧
    contractStop (withWord 0x0200000000#40 running) = none ∧
    faulted (guardedStep (withWord 0x0700000000#40 (nestedAt 0#8 false))) = some .exitAtDepthZero ∧
    faulted (guardedStep (withWord 0x0600000000#40 (nestedAt 255#8 true))) = some .enterAtDepthMax ∧
    faulted (guardedStep (withStep .usec (clockAt 0#32 0x7FFFFFFF#32))) = some .usLeavesNominalRange ∧
    refusal (guardedStep (withWord 0x0100000000#40 running)) = some .secondInit ∧
    refusal (guardedStep (withWord 0x0400000005#40 State.reset)) = some .timeBeforeInit ∧
    refusal (guardedStep (withWord 0x0900000000#40 running)) = some .reservedWord :=
  ⟨⟨_, rfl⟩, rfl, rfl, rfl, rfl, rfl, rfl, rfl⟩

/-- For `GuardedRunsStayWithinTheInvariants`: the deepest ENTER that the conservative machine makes. -/
theorem witness_guarded_run :
    let s := withWord 0x0600000000#40 (nestedAt 254#8 true)
    (TimerInv s ∧ MaskIffDepth s ∧ UsNominal s) ∧ ∃ t, guardedCore.run 1 s = .next t :=
  ⟨⟨⟨by decide, by decide, by decide, by decide⟩, by unfold MaskIffDepth; decide, by unfold UsNominal; decide⟩, _, rfl⟩

/-- For `LatencyBoundKeepsTheCounterNominal`: the last microsecond of a latency of 71, the greatest L, and the first INIT. -/
theorem witness_latency :
    (let s := { rebaseDue with base := 0#32, sched := [.usec] }
     71 < Config.rebasePeriodUs ∧ TimerInv s ∧ UsWithinLatency 71 s ∧
     (nextKind s = .usec → s.pend = true → s.icnt.toNat < 71) ∧ ¬ (nextInstr? s = some .init ∧ s.run = true) ∧
     ∃ t, step s = .next t) ∧
    (let s := withWord 0x0100000000#40 State.reset
     9999999 < Config.rebasePeriodUs ∧ TimerInv s ∧ UsWithinLatency 9999999 s ∧ ¬ (nextInstr? s = some .init ∧ s.run = true) ∧
     ∃ t, step s = .next t) :=
  ⟨⟨by decide, ⟨by decide, by decide, by decide, by decide⟩, by unfold UsWithinLatency; decide, by decide, by decide, _, rfl⟩,
    by decide, ⟨by decide, by decide, by decide, by decide⟩, by unfold UsWithinLatency; decide, by decide, _, rfl⟩

/-- For `ClockStandsStillBeforeInit` and `WaitBeforeInitHangs`: V-DL2's WAIT before INIT, with the least and the greatest target that hangs. -/
theorem witness_before_init :
    ∀ target ∈ [1#32, 0x7FFFFFFF#32],
      let s : State := { State.reset with seq := .wait, target := target, sched := [.poll] }
      TimerInv s ∧ s.run = false ∧ nextInstr? s ≠ some .init ∧ s.seq = .wait ∧ 1 ≤ s.target.toNat ∧
      s.target.toNat < 2 ^ 31 ∧ nextKind s ≠ .reset ∧ ∃ t, step s = .next t := by
  intro target ht
  simp only [List.mem_cons, List.not_mem_nil, or_false] at ht
  rcases ht with rfl | rfl <;>
    exact ⟨⟨by decide, by decide, by decide, by decide⟩, rfl, by decide, rfl, by decide, by decide, by decide, _, rfl⟩

/-- For `FairPollingCompletesADueWait`: a WAIT that finds its deadline due, in the fair run by turns. -/
theorem witness_fair_polling :
    let x := runByTurns (waiting 100#32 6400#32)
    Execution x ∧ Fair x ∧ (x 0).seq = .wait ∧ PersistsFrom 0 (fun m => nextKind (x m) ≠ .reset) ∧
    PersistsFrom 0 (fun m => (∀ k, 0 ≤ k → k ≤ m → (x k).seq = .wait) →
      ((x m).target - nowValue (x m)).toInt ≤ 0) := by
  refine ⟨runByTurns_execution _, runByTurns_fair _, rfl, fun m _ => nextKind_runByTurns_ne_reset _ m, fun m _ h => ?_⟩
  cases m with
  | zero => decide
  | succ m => exact absurd (h 1 (by omega) (by omega)) (by decide)

/-- For `FairRunsDeliverAnUnmaskedInterrupt`: S6's request, in the fair run by turns. -/
theorem witness_fair_delivery :
    let x := runByTurns rebaseDue
    Execution x ∧ Fair x ∧ (x 0).pend = true ∧ PersistsFrom 0 (fun m => nextKind (x m) ≠ .reset) ∧
    PersistsFrom 0 (fun m => (∀ k, 0 ≤ k → k ≤ m → (x k).pend = true) → (x m).im = false) := by
  refine ⟨runByTurns_execution _, runByTurns_fair _, rfl, fun m _ => nextKind_runByTurns_ne_reset _ m, fun m _ h => ?_⟩
  match m with
  | 0 => decide
  | 1 => decide
  | m + 2 => exact absurd (h 2 (by omega) (by omega)) (by decide)

/-- For `FairTimeBringsAMaskedWaitDue`: a WAIT one tick long inside a critical section, with US at the last value that R134 admits. -/
theorem witness_fair_time :
    let x := runByTurns { waiting 33554431#32 0x7FFFFFBF#32 with depth := 1#8, im := true }
    Execution x ∧ Fair x ∧ (x 0).seq = .wait ∧ (x 0).run = true ∧ (x 0).im = true ∧
    (x 0).depth ≠ 0#Config.depthWidth ∧ 0 < ((x 0).target - nowValue (x 0)).toInt ∧
    (x 0).us.toNat + 64 * ((x 0).target - nowValue (x 0)).toNat < 2 ^ 31 ∧
    PersistsFrom 0 (fun m => nextKind (x m) ≠ .reset) :=
  ⟨runByTurns_execution _, runByTurns_fair _, rfl, rfl, rfl, by decide, by decide, by decide,
    fun m _ => nextKind_runByTurns_ne_reset _ m⟩

/-- For `HangingWaitIsPolledForEver`: V-DL2's WAIT before INIT. -/
theorem witness_polled_for_ever :
    let x := runByTurns { State.reset with seq := .wait, target := 1#32 }
    Execution x ∧ Fair x ∧ TimerInv (x 0) ∧ (x 0).run = false ∧ (x 0).seq = .wait ∧ 1 ≤ (x 0).target.toNat ∧
    (x 0).target.toNat < 2 ^ 31 ∧ PersistsFrom 0 (fun m => nextKind (x m) ≠ .reset) :=
  ⟨runByTurns_execution _, runByTurns_fair _, ⟨by decide, by decide, by decide, by decide⟩, rfl, rfl, by decide, by decide,
    fun m _ => nextKind_runByTurns_ne_reset _ m⟩

/-- For `MaskedWaitBeyondReachIsPolledForEver`: the nearest target beyond US's reach, and the farthest that the half range admits. -/
theorem witness_masked_hang :
    ∀ target ∈ [0x02000000#32, 0x7DFFFFFF#32],
      let x := runByTurns { waiting target 0#32 with depth := 1#8, im := true }
      Execution x ∧ Fair x ∧ (x 0).seq = .wait ∧ (x 0).im = true ∧ (x 0).depth ≠ 0#Config.depthWidth ∧
      2 ^ 25 ≤ ((x 0).target - (x 0).base).toNat ∧ ((x 0).target - (x 0).base).toNat < 2 ^ 31 - 2 ^ 25 ∧
      PersistsFrom 0 (fun m => nextKind (x m) ≠ .reset) := by
  intro target ht
  simp only [List.mem_cons, List.not_mem_nil, or_false] at ht
  rcases ht with rfl | rfl <;>
    exact ⟨runByTurns_execution _, runByTurns_fair _, rfl, rfl, by decide, by decide, by decide,
      fun m _ => nextKind_runByTurns_ne_reset _ m⟩

end Sys2Proof.Tests
end

section
namespace Sys2Proof.Machine

/-- A `Reset` step changes nothing in the reset state (R120), so the laws of `resetBody` give each of its registers. -/
theorem resetBody_reset : resetBody State.reset = State.reset := by rfl

/-- Settles O44: the reset state is the outcome of a `Reset` step, whose law for each register is its row of R24's table. -/
theorem resetStateHasTheTabulatedValues : Obligations.ResetStateHasTheTabulatedValues := by
  unfold Obligations.ResetStateHasTheTabulatedValues
  rw [← resetBody_reset]
  exact ⟨resetBody_base _, resetBody_us _, resetBody_run _, resetBody_depth _, resetBody_im _, resetBody_armed _,
    resetBody_icnt _, resetBody_pend _, resetBody_target _, resetBody_seq _⟩

end Sys2Proof.Machine
end

section
namespace Sys2Proof

/-! ### The decoder: which words are which instruction, and which are reserved -/

/-- Fields decode to an instruction iff they are that instruction's row of the opcode map (R42, R44). -/
theorem decodeFields_eq_ok_iff (f : Fields) (i : Instr) : decodeFields f = .ok i ↔ f = encodeFields i := by
  constructor
  · intro h
    obtain ⟨op, arg⟩ := f
    simp only [decodeFields] at h
    split_ifs at h <;> cases h <;> simp_all only [encodeFields]
  · rintro rfl
    cases i <;> simp [decodeFields, encodeFields]

theorem decode_eq_ok_iff_splitFields (w : CmdWord) (i : Instr) : decode w = .ok i ↔ splitFields w = encodeFields i :=
  decodeFields_eq_ok_iff (splitFields w) i

theorem decode_eq_ok_iff (w : CmdWord) (i : Instr) : decode w = .ok i ↔ w = encode i :=
  (decode_eq_ok_iff_splitFields w i).trans (splitFields_eq_iff w (encodeFields i))

/-- The opcodes in R45's three parts: unassigned, assigned without an operand, assigned with one. -/
theorem opcode_cases (op : BitVec 8) :
    (op = 0x00#8 ∨ 0x09 ≤ op.toNat) ∨ op ∈ [0x01#8, 0x02#8, 0x06#8, 0x07#8, 0x08#8] ∨ op ∈ [0x03#8, 0x04#8, 0x05#8] := by
  simp only [List.mem_cons, List.not_mem_nil, or_false]
  bv_omega

theorem decodeFields_of_unassigned {f : Fields} (h : f.op = 0x00#8 ∨ 0x09 ≤ f.op.toNat) :
    ∃ r, decodeFields f = .error r := by
  have hne : ∀ op ∈ [0x01#8, 0x02#8, 0x03#8, 0x04#8, 0x05#8, 0x06#8, 0x07#8, 0x08#8], f.op ≠ op := by
    intro op hop
    simp only [List.mem_cons, List.not_mem_nil, or_false] at hop
    bv_omega
  simp only [List.forall_mem_cons] at hne
  simp [decodeFields, hne]

theorem decodeFields_error_iff_of_no_operand {f : Fields} (h : f.op ∈ [0x01#8, 0x02#8, 0x06#8, 0x07#8, 0x08#8]) :
    (∃ r, decodeFields f = .error r) ↔ f.arg ≠ 0#32 := by
  simp only [List.mem_cons, List.not_mem_nil, or_false] at h
  by_cases harg : f.arg = 0#32 <;> rcases h with h | h | h | h | h <;> simp [decodeFields, h, harg]

theorem decodeFields_ne_error_of_operand {f : Fields} (h : f.op ∈ [0x03#8, 0x04#8, 0x05#8]) :
    ¬ ∃ r, decodeFields f = .error r := by
  simp only [List.mem_cons, List.not_mem_nil, or_false] at h
  rcases h with h | h | h <;> simp [decodeFields, h]

/-- The reserved space, word for word (R45). -/
theorem decode_error_iff (w : CmdWord) : (∃ r, decode w = .error r) ↔
    (opField w = 0x00#8 ∨ 0x09 ≤ (opField w).toNat ∨
      (opField w ∈ [0x01#8, 0x02#8, 0x06#8, 0x07#8, 0x08#8] ∧ argField w ≠ 0#32)) := by
  rcases opcode_cases (opField w) with h | h | h
  · exact iff_of_true (decodeFields_of_unassigned (f := splitFields w) h) (h.imp_right .inl)
  · have hassigned : ¬ (opField w = 0x00#8 ∨ 0x09 ≤ (opField w).toNat) := by
      simp only [List.mem_cons, List.not_mem_nil, or_false] at h
      bv_omega
    rw [← or_assoc, or_iff_right hassigned, and_iff_right h]
    exact decodeFields_error_iff_of_no_operand (f := splitFields w) h
  · refine iff_of_false (decodeFields_ne_error_of_operand (f := splitFields w) h) ?_
    simp only [List.mem_cons, List.not_mem_nil, or_false] at h ⊢
    bv_omega

/-! ### The masks of the opcode map -/

/-- A mask that keeps the whole opcode field fixes the opcode of every word it selects (R42). -/
theorem opField_of_masked {w mask row : CmdWord} (hmask : opField mask = 0xFF#8) (h : w &&& mask = row) :
    opField w = opField row := by
  have hop : opField (w &&& mask) = opField w &&& opField mask := BitVec.extractLsb'_and
  rw [hmask, h] at hop
  rw [hop]
  exact BitVec.and_allOnes.symm

/-- A row without an operand selects its one word (R42, R43). -/
theorem full_mask_selects_iff (w : CmdWord) (i : Instr) : w &&& 0xFFFFFFFFFF#40 = encode i ↔ decode w = .ok i := by
  have hmask : w &&& 0xFFFFFFFFFF#40 = w := BitVec.and_allOnes
  rw [hmask, decode_eq_ok_iff]

theorem joinFields_and_opcode_mask (f : Fields) : joinFields f &&& 0xFF00000000#40 = joinFields ⟨f.op, 0#32⟩ := by
  have hmask : 0xFF00000000#40 = BitVec.allOnes 8 ++ 0#32 := by decide
  have hand : (f.op ++ f.arg) &&& (BitVec.allOnes 8 ++ 0#32) = f.op ++ 0#32 := by
    rw [BitVec.and_append, BitVec.and_allOnes, BitVec.and_zero]
  rw [hmask]
  exact hand

/-- A row with an operand selects every word of its opcode; the operand is the rest of the word (R42, R41). -/
theorem opcode_mask_selects_iff {w : CmdWord} {i : Instr} {op : BitVec 8} (hi : encodeFields i = ⟨op, argField w⟩) :
    w &&& 0xFF00000000#40 = joinFields ⟨op, 0#32⟩ ↔ decode w = .ok i := by
  rw [decode_eq_ok_iff_splitFields, hi]
  constructor
  · intro h
    have hop : opField w = op := by simpa using opField_of_masked (by decide) h
    rw [splitFields, hop]
  · intro h
    rw [← joinFields_splitFields w, h, joinFields_and_opcode_mask]

/-- Settles O2: the rows without an operand by `full_mask_selects_iff`, those with one by `opcode_mask_selects_iff`; two rows share no
word because their masks keep the opcode and their opcodes differ. -/
theorem opcodeMapSelectsInstruction : Obligations.OpcodeMapSelectsInstruction := by
  unfold Obligations.OpcodeMapSelectsInstruction
  refine ⟨fun w => ⟨full_mask_selects_iff w .init, full_mask_selects_iff w .now,
    opcode_mask_selects_iff (i := .delta (argField w)) rfl, opcode_mask_selects_iff (i := .wait (argField w)) rfl,
    opcode_mask_selects_iff (i := .check (argField w)) rfl, full_mask_selects_iff w .enter, full_mask_selects_iff w .exit,
    full_mask_selects_iff w .fail⟩, ?_⟩
  refine List.Pairwise.imp
    (R := fun a b => opField a.2 = 0xFF#8 ∧ opField b.2 = 0xFF#8 ∧ opField a.1 ≠ opField b.1) ?_ (by decide)
  rintro a b ⟨ha, hb, hne⟩ w ⟨hwa, hwb⟩
  exact hne ((opField_of_masked ha hwa).symm.trans (opField_of_masked hb hwb))

end Sys2Proof
end

section
namespace Sys2Proof.Machine

open Safety

/-! ### A command word at the port -/

/-- The `Cmd` step on an offered word, SEQ at IDLE: the schedule's entry and the word are taken, and the word is performed (R44). -/
theorem step_of_offered {s : State} {w : CmdWord} {ws : List CmdWord} (hk : nextKind s = .cmd) (hs : s.seq = .idle)
    (ho : s.offered = w :: ws) : step s = execWord w { s with sched := s.sched.tail, offered := ws } := by
  have he : enabled .cmd s = true := by simp [enabled, State.cmdValid, State.cmdReady, hs, ho]
  rw [step_of_enabled hk he]
  simp [perform, performCmd, consumeWord, takeTurn, ho]

theorem execWord_of_reserved {w : CmdWord} {r : ReservedWord} (hd : decode w = .error r) (s : State) :
    execWord w s = .next (noResponse s) := by
  simp only [execWord, hd]

theorem guardedStep_of_reserved {s : State} {w : CmdWord} {ws : List CmdWord} {r : ReservedWord} (hk : nextKind s = .cmd)
    (hs : s.seq = .idle) (ho : s.offered = w :: ws) (hd : decode w = .error r) :
    guardedStep s = .refused .reservedWord := by
  have hstop : contractStop s = some (.refused .reservedWord) := by
    simp [contractStop, nextWord?, wordStop, hk, hs, ho, hd]
  simp only [guardedStep, hstop]

/-- Settles O4: the reserved space by `decode_error_iff`, the step by `execWord_of_reserved`. -/
theorem reservedWordsAreConsumedWithoutEffect : Obligations.ReservedWordsAreConsumedWithoutEffect := by
  unfold Obligations.ReservedWordsAreConsumedWithoutEffect
  refine ⟨decode_error_iff, fun s w ws r hk hs ho hd => ⟨?_, guardedStep_of_reserved hk hs ho hd⟩⟩
  rw [step_of_offered hk hs ho, execWord_of_reserved hd]
  rfl

/-! ### Responses -/

/-- The response word of an instruction in the step that runs it: R47's table, and none where the `Cmd` step emits none. -/
def responseOf (i : Instr) (s : State) : Option RspWord :=
  match i with
  | .init => some 0#32
  | .now => some (nowValue s)
  | .delta d => some (zext32 (deltaBody d s).1)
  | .wait _ => none
  | .check d => some (if (deltaBody d s).1.toNat < 2 then 1#32 else 0#32)
  | .enter => some 0#32
  | .exit => some 0#32
  | .fail => none

theorem exec_rsp {i : Instr} {s t : State} (h : exec i s = .next t) : t.rsp = responseOf i s := by
  rcases exec_cases h with ⟨rfl, rfl⟩ | ⟨rfl, rfl⟩ | ⟨d, rfl, rfl⟩ | ⟨d, rfl, rfl⟩ | ⟨d, rfl, rfl⟩ | ⟨rfl, rfl⟩ | ⟨rfl, rfl⟩ |
    ⟨rfl, rfl⟩ <;> simp [responseOf, deltaBody_eq]

theorem responseOf_isSome_iff (i : Instr) (s : State) : (responseOf i s).isSome = true ↔
    (i = .init ∨ i = .now ∨ (∃ d, i = .delta d) ∨ (∃ d, i = .check d) ∨ i = .enter ∨ i = .exit) := by
  cases i <;> simp [responseOf]

/-- A 16-bit result as a response word: its upper half is zero (R47). -/
theorem zext32_eq_append (r : Delta) : zext32 r = 0#16 ++ r := by
  apply BitVec.eq_of_toNat_eq
  simpa [zext32] using r.isLt.trans (by decide : 2 ^ 16 < 2 ^ 32)

theorem zext32_low (r : Delta) : (zext32 r).extractLsb' 0 16 = r := by
  rw [zext32_eq_append]
  exact BitVec.extractLsb'_append_eq_right

theorem zext32_high (r : Delta) : (zext32 r).extractLsb' 16 16 = 0#16 := by
  rw [zext32_eq_append]
  exact BitVec.extractLsb'_append_eq_left

/-- A `Poll` emits its response, which is 0, exactly where it completes the WAIT (R83, R46). -/
theorem pollBody_rsp {s : State} (hs : s.seq = .wait) :
    (pollBody s).rsp = if (pollBody s).seq = .idle then some 0#32 else none := by
  by_cases hdue : (s.target - nowValue s).toInt ≤ 0
  · rw [pollBody_of_due hdue, if_pos rfl]
  · rw [pollBody_of_ahead (not_le.mp hdue)]
    simp [hs]

theorem nextInstr?_of_ne_cmd {s : State} (hk : nextKind s ≠ .cmd) : nextInstr? s = none := by
  simp [nextInstr?, nextWord?, hk]

theorem nextInstr?_of_reserved {s : State} {w : CmdWord} {ws : List CmdWord} {r : ReservedWord}
    (ho : s.offered = w :: ws) (hd : decode w = .error r) : nextInstr? s = none := by
  unfold nextInstr? nextWord?
  split_ifs <;> simp [ho, hd, Except.toOption]

/-- Settles O12: step kind by step kind; a `Cmd` step by `responseOf_isSome_iff`, a `Poll` by `pollBody_rsp`. -/
theorem oneResponseWhenACommandCompletes : Obligations.OneResponseWhenACommandCompletes := by
  unfold Obligations.OneResponseWhenACommandCompletes
  intro s t h
  rcases step_cases h with ⟨hk, rfl⟩ | ⟨hk, rfl⟩ | ⟨hk, -, -, rfl⟩ | ⟨hk, hs, w, ws, ho, hw⟩ | ⟨hk, hs, rfl⟩
  · simp [hk, nextInstr?_of_ne_cmd]
  · simp [hk, nextInstr?_of_ne_cmd, usecBody]
  · simp [hk, nextInstr?_of_ne_cmd, takeInterrupt]
  · rcases execWord_cases hw with ⟨i, hd, hi⟩ | ⟨r, hd, rfl⟩
    · simp [hk, nextInstr?_eq hk hs ho hd, exec_rsp hi, responseOf_isSome_iff]
    · simp [hk, nextInstr?_of_reserved ho hd]
  · rw [pollBody_rsp (s := takeTurn s) hs]
    simp [hk, nextInstr?_of_ne_cmd, apply_ite Option.isSome]

/-- Settles O13: the `Cmd` steps by `exec_rsp`, the completing `Poll` by `pollBody_rsp`. -/
theorem responseValuesFollowTheTable : Obligations.ResponseValuesFollowTheTable := by
  unfold Obligations.ResponseValuesFollowTheTable
  refine ⟨fun s t h => exec_rsp h, fun s t h => exec_rsp h,
    fun d s t h => ⟨_, exec_rsp h, zext32_low _, zext32_high _⟩, fun d s t h => exec_rsp h, fun s t h hs hk hidle => ?_,
    fun d s t h => exec_rsp h, fun s t h => exec_rsp h, fun s t h => exec_rsp h, fun s t h => exec_rsp h,
    fun w s t r hd h => ?_⟩
  · have henabled : enabled .poll s = true := by simp [enabled, hs]
    rw [step_of_enabled hk henabled] at h
    obtain rfl : pollBody (takeTurn s) = t := Host.Outcome.next.inj h
    rw [pollBody_rsp (s := takeTurn s) hs, if_pos hidle]
  · rw [execWord_of_reserved hd] at h
    obtain rfl : noResponse s = t := Host.Outcome.next.inj h
    exact noResponse_rsp s

/-! ### The text form -/

/-- Settles O6: `instrNamed` evaluated at each name R51 lists and at each mnemonic of R50, for any operand. -/
theorem aliasesAssembleToTheirInstruction : Obligations.AliasesAssembleToTheirInstruction := by
  unfold Obligations.AliasesAssembleToTheirInstruction
  exact ⟨fun _ => ⟨rfl, rfl, rfl, rfl, rfl, rfl⟩, rfl, rfl, rfl, rfl, rfl, rfl, rfl, rfl, rfl, rfl, rfl, rfl⟩

end Sys2Proof.Machine
end

section
namespace Sys2Proof.Machine

open Safety

/-! ### The sequencer -/

/-- SEQ after an instruction, from what it was before: only WAIT and FAIL write it (R55, R82, R90). -/
def seqAfter (i : Instr) (before : Sequencer) : Sequencer :=
  match i with
  | .init => before
  | .now => before
  | .delta _ => before
  | .wait _ => .wait
  | .check _ => before
  | .enter => before
  | .exit => before
  | .fail => .halt

theorem exec_seq {i : Instr} {s t : State} (h : exec i s = .next t) : t.seq = seqAfter i s.seq := by
  rcases exec_cases h with ⟨rfl, rfl⟩ | ⟨rfl, rfl⟩ | ⟨d, rfl, rfl⟩ | ⟨d, rfl, rfl⟩ | ⟨d, rfl, rfl⟩ | ⟨rfl, rfl⟩ | ⟨rfl, rfl⟩ |
    ⟨rfl, rfl⟩ <;> rfl

@[simp] theorem usecBody_seq (s : State) : (usecBody s).seq = s.seq := by rfl

@[simp] theorem takeInterrupt_seq (s : State) : (takeInterrupt s).seq = s.seq := by rfl

/-- The value `delta_body` returns does not depend on whose turn it is. -/
theorem deltaBody_takeTurn_fst (d : Tick) (s : State) : (deltaBody d (takeTurn s)).1 = (deltaBody d s).1 := by rfl

theorem deltaBody_eq_zero_iff (d : Tick) (s : State) : (deltaBody d s).1 = 0#16 ↔ (d - nowValue s).toInt ≤ 0 := by
  rw [deltaBody_eq, saturateDistance_eq_zero_iff]

/-- A `Poll` completes the WAIT exactly where `delta_body` returns 0, and otherwise leaves SEQ as it was (R83). -/
theorem pollBody_seq (s : State) : (pollBody s).seq = if (deltaBody s.target s).1 = 0#16 then .idle else s.seq := by
  simp only [deltaBody_eq_zero_iff, pollBody_eq, apply_ite State.seq]

/-- Settles O10: step kind by step kind; a `Cmd` step on an instruction by `exec_seq`, a `Poll` by `pollBody_seq`. -/
theorem sequencerFollowsItsTransitionTable : Obligations.SequencerFollowsItsTransitionTable := by
  unfold Obligations.SequencerFollowsItsTransitionTable
  intro s t h
  rcases step_cases h with ⟨hk, rfl⟩ | ⟨hk, rfl⟩ | ⟨hk, -, -, rfl⟩ | ⟨hk, hs, w, ws, ho, hw⟩ | ⟨hk, hs, rfl⟩
  · exact .inl ⟨hk, resetBody_seq _⟩
  · exact .inr (.inl ⟨hk, usecBody_seq _⟩)
  · exact .inr (.inr (.inl ⟨hk, takeInterrupt_seq _⟩))
  · refine .inr (.inr (.inr (.inl ⟨hk, hs, ?_⟩)))
    have hidle : (consumeWord (takeTurn s)).seq = .idle := hs
    rcases execWord_cases hw with ⟨i, hd, hi⟩ | ⟨r, hd, rfl⟩
    · have hseq : t.seq = seqAfter i .idle := hidle ▸ exec_seq hi
      exact .inr ⟨i, nextInstr?_eq hk hs ho hd, hseq⟩
    · exact .inl ⟨nextInstr?_of_reserved ho hd, hidle⟩
  · refine .inr (.inr (.inr (.inr ⟨hk, hs, ?_⟩)))
    rw [pollBody_seq, takeTurn_seq, takeTurn_target, deltaBody_takeTurn_fst, hs]
    by_cases hdue : (deltaBody s.target s).1 = 0#16
    · exact .inl ⟨hdue, if_pos hdue⟩
    · exact .inr ⟨hdue, if_neg hdue⟩

end Sys2Proof.Machine
end

section
namespace Sys2Proof.Machine

/-! ### A pending request -/

theorem exec_pend {i : Instr} {s t : State} (h : exec i s = .next t) : t.pend = s.pend := by
  rcases exec_cases h with ⟨rfl, rfl⟩ | ⟨rfl, rfl⟩ | ⟨d, rfl, rfl⟩ | ⟨d, rfl, rfl⟩ | ⟨d, rfl, rfl⟩ | ⟨rfl, rfl⟩ | ⟨rfl, rfl⟩ |
    ⟨rfl, rfl⟩ <;> rfl

theorem execWord_pend {w : CmdWord} {s t : State} (h : execWord w s = .next t) : t.pend = s.pend := by
  rcases execWord_cases h with ⟨i, -, hi⟩ | ⟨r, -, rfl⟩
  · exact exec_pend hi
  · exact noResponse_pend s

/-- A `Usec` step sets PEND or leaves it (R102). -/
theorem usecBody_pend_of_pend {s : State} (hp : s.pend = true) : (usecBody s).pend = true := by
  simp [usecBody, hp]

@[simp] theorem pollBody_pend (s : State) : (pollBody s).pend = s.pend := by
  simp only [pollBody_eq, apply_ite State.pend, ite_self]

theorem enabled_irq_iff (s : State) : enabled .irq s = true ↔ s.pend = true ∧ s.im = false := by
  simp [enabled]

theorem enabled_irq_of_masked {s : State} (hm : s.im = true) : enabled .irq s = false := by
  simp [enabled, hm]

theorem irqEnable_of_masked {s : State} (hm : s.im = true) : s.irqEnable = false := by
  simp [State.irqEnable, hm]

/-- Only taking the interrupt and `Reset` clear PEND (R22), and a mask excludes the first (R105). -/
theorem step_keeps_pend_of_masked {s t : State} (hm : s.im = true) (hp : s.pend = true) (hr : nextKind s ≠ .reset)
    (h : step s = .next t) : t.pend = true := by
  rcases step_cases h with ⟨hk, -⟩ | ⟨-, rfl⟩ | ⟨-, -, hu, -⟩ | ⟨-, -, w, ws, -, hw⟩ | ⟨-, -, rfl⟩
  · exact absurd hk hr
  · exact usecBody_pend_of_pend hp
  · exact absurd (hm.symm.trans hu) (by decide)
  · exact (execWord_pend hw).trans hp
  · exact (pollBody_pend _).trans hp

/-! ### ENTER and EXIT -/

/-- ENTER, said forwards (R61). -/
theorem exec_enter (s : State) :
    exec .enter s = .next { s with im := true, depth := s.depth + 1#Config.depthWidth, rsp := some 0#32 } := by rfl

/-- EXIT's zero test, made on the value just written, finds DEPTH at its last level (R62). -/
theorem depthIsZero_sub_one (d : Depth) : depthIsZero (d - 1#Config.depthWidth) = decide (d = 1#Config.depthWidth) := by
  rw [Bool.eq_iff_iff, depthIsZero_iff, decide_eq_true_iff, BitVec.sub_eq_iff_eq_add, BitVec.zero_add]

theorem exitBody_eq (s : State) :
    exitBody s =
      { s with
        depth := s.depth - 1#Config.depthWidth
        im := if s.depth = 1#Config.depthWidth then false else s.im } := by
  simp only [exitBody, depthIsZero_sub_one, decide_eq_true_eq]

/-- EXIT, said forwards (R63). -/
theorem exec_exit (s : State) :
    exec .exit s =
      .next { s with
        depth := s.depth - 1#Config.depthWidth
        im := if s.depth = 1#Config.depthWidth then false else s.im
        rsp := some 0#32 } := by
  simp only [exec, execExit, exitBody_eq, respond]

/-- Settles O14: the body and the step by `exec_enter`; ENTER leaves the mask set, so `step_keeps_pend_of_masked` says that a pending
request waits. -/
theorem enterMasksAndCountsUp : Obligations.EnterMasksAndCountsUp := by
  unfold Obligations.EnterMasksAndCountsUp
  refine ⟨(decode_eq_ok_iff _ .enter).2 rfl, rfl, fun s => ⟨rfl, exec_enter s, fun t ht => ?_⟩⟩
  have hmasked : t.im = true := by
    rw [exec_enter] at ht
    rw [← Host.Outcome.next.inj ht]
  exact ⟨enabled_irq_of_masked hmasked, irqEnable_of_masked hmasked,
    fun u hu hr hp => step_keeps_pend_of_masked hmasked hp hr hu⟩

/-- Settles O15: the body by `exitBody_eq`, the step by `exec_exit`; at the last level the mask is cleared and PEND is kept, which is
`Irq`'s enabling condition. -/
theorem exitCountsDownAndUnmasksAtZero : Obligations.ExitCountsDownAndUnmasksAtZero := by
  unfold Obligations.ExitCountsDownAndUnmasksAtZero
  refine ⟨(decode_eq_ok_iff _ .exit).2 rfl, rfl, fun s => ⟨exitBody_eq s, exec_exit s, fun t ht hlast hp => ?_⟩⟩
  have hunmasked : t.im = false := by
    rw [exec_exit] at ht
    rw [← Host.Outcome.next.inj ht]
    exact if_pos hlast
  exact (enabled_irq_iff t).2 ⟨(exec_pend ht).trans hp, hunmasked⟩

end Sys2Proof.Machine
end

section
namespace Sys2Proof.Machine

/-! ### The elapsed ticks (R71) and INIT (R70) -/

/-- The shift of US is a signed division that rounds down (R71). -/
theorem elapsedTicks_toInt (us : Micros) : (elapsedTicks us).toInt = us.toInt / 64 := by
  rw [elapsedTicks, sra32, BitVec.toInt_sshiftRight, Int.shiftRight_eq_div_pow]
  rfl

/-- From the sign bit on, the shift copies it into the top six bits (R71, R130). -/
theorem elapsedTicks_toNat_of_negative {us : Micros} (h : 2 ^ 31 ≤ us.toNat) :
    (elapsedTicks us).toNat = us.toNat / 64 + 0xFC000000 := by
  have hneg : us.toInt = us.toNat - 4294967296 := by rw [tick_toInt, if_neg (by omega)]
  have hdiv := elapsedTicks_toInt us
  rw [hneg, tick_toInt] at hdiv
  have hus := Config.micros_lt us
  split at hdiv <;> omega

/-- Settles O20: `elapsedTicks_toNat` below the sign bit, `elapsedTicks_toNat_of_negative` from it on; `elapsedTicks_toInt` covers both,
as 64 is positive and so the two roundings of `Int` division agree. -/
theorem elapsedTicksDividesBySixtyFour : Obligations.ElapsedTicksDividesBySixtyFour := by
  unfold Obligations.ElapsedTicksDividesBySixtyFour
  refine fun us => ⟨fun hnominal => ?_, elapsedTicks_toNat_of_negative, ?_⟩
  · have hticks := elapsedTicks_toNat hnominal
    exact ⟨hticks, by omega⟩
  · rw [elapsedTicks_toInt, Int.fdiv_eq_ediv_of_nonneg _ (by decide)]

/-- INIT, said forwards (R70). -/
theorem exec_init (s : State) :
    exec .init s = .next { s with base := 0#32, run := true, armed := true, icnt := 0#32, rsp := some 0#32 } := by rfl

/-- Where BASE is 0, the time is what US alone gives (R72). -/
theorem nowValue_of_base_zero {s : State} (h : s.base = 0#32) : nowValue s = elapsedTicks s.us := by
  rw [nowValue, h, BitVec.zero_add]

/-- INIT zeroes BASE and leaves US, so the time after it is US's ticks, after a second INIT too (R70). -/
theorem nowValue_of_exec_init {s t : State} (h : exec .init s = .next t) : nowValue t = elapsedTicks s.us := by
  rw [exec_init] at h
  cases h
  exact nowValue_of_base_zero rfl

/-- Settles O18: the step by `exec_init`, the time afterwards by `nowValue_of_exec_init`. -/
theorem initStartsTheClock : Obligations.InitStartsTheClock := by
  unfold Obligations.InitStartsTheClock
  refine ⟨(decode_eq_ok_iff _ .init).2 rfl, rfl, fun s => ⟨exec_init s, fun t ht => ?_⟩⟩
  have htime := nowValue_of_exec_init ht
  exact ⟨htime, fun hus => by rw [htime, hus, elapsedTicks_zero]⟩

end Sys2Proof.Machine
end

section
namespace Sys2Proof.Machine

/-! ### The distance to a deadline (R80) -/

/-- The result of `delta_body` as a number: the signed distance, clamped (R80). -/
theorem deltaBody_fst_toNat (target : Tick) (s : State) :
    ((deltaBody target s).1.toNat : Int) = min (max (target - nowValue s).toInt 0) 65535 := by
  rw [deltaBody_eq, saturateDistance_toNat]

/-- The sentinel stands for every distance from 65,535 on, the distance 65,535 itself among them (R80). -/
theorem deltaBody_eq_farFuture_iff (target : Tick) (s : State) :
    (deltaBody target s).1 = 0xFFFF#16 ↔ 65535 ≤ (target - nowValue s).toInt := by
  have hclamp := deltaBody_fst_toNat target s
  have hsentinel : (0xFFFF#16).toNat = 65535 := by decide
  rw [← BitVec.toNat_inj, hsentinel]
  omega

/-- `delta_body` compares after `now_body` and writes nothing of its own (R80). -/
theorem deltaBody_snd (target : Tick) (s : State) : (deltaBody target s).2 = (nowBody s).2 := by
  rw [deltaBody_eq, nowBody_eq]

/-- Settles O28: every clause from the clamped value `deltaBody_fst_toNat`; the two ends by `deltaBody_eq_zero_iff` and
`deltaBody_eq_farFuture_iff`, the state by `deltaBody_snd`. -/
theorem deltaBodySaturatesTheSignedDistance : Obligations.DeltaBodySaturatesTheSignedDistance := by
  unfold Obligations.DeltaBodySaturatesTheSignedDistance
  intro target s
  have hclamp := deltaBody_fst_toNat target s
  have hsentinel := (deltaBody_eq_farFuture_iff target s).2
  refine ⟨(deltaBody_eq_zero_iff target s).2, fun hahead hfits => ?_, fun hlast => hsentinel hlast.ge,
    fun hfar => hsentinel ((by decide : (65535 : Int) ≤ 65536).trans hfar), hclamp, deltaBody_snd target s⟩
  rw [hclamp, max_eq_left (by omega), min_eq_left (by omega)]

end Sys2Proof.Machine
end

section
namespace Sys2Proof.Machine

open Safety

/-! ### The halted machine -/

theorem enabled_cmd_of_ne_idle {s : State} (hs : s.seq ≠ .idle) : enabled .cmd s = false := by
  simp [enabled, State.cmdReady, hs]

theorem enabled_poll_of_ne_wait {s : State} (hs : s.seq ≠ .wait) : enabled .poll s = false := by
  simp [enabled, hs]

theorem completed_of_ne_idle {s : State} (hs : s.seq ≠ .idle) : completed s = false := by
  simp [completed, hs]

theorem halted_of_halt {s : State} (hs : s.seq = .halt) : s.halted = true := by
  simp [State.halted, hs]

theorem cmdReady_of_ne_idle {s : State} (hs : s.seq ≠ .idle) : s.cmdReady = false := by
  simp [State.cmdReady, hs]

@[simp] theorem usecBody_rsp (s : State) : (usecBody s).rsp = none := by rfl

@[simp] theorem takeInterrupt_rsp (s : State) : (takeInterrupt s).rsp = none := by rfl

/-- Short of `Reset`, a halted machine stays halted, stays silent, and keeps a mask that is set: `Irq` needs the mask clear, `Cmd` needs
IDLE and `Poll` needs WAIT (R90, R91). -/
theorem step_keeps_halt {s t : State} (hs : s.seq = .halt) (h : step s = .next t) (hr : nextKind s ≠ .reset) :
    t.seq = .halt ∧ t.rsp = none ∧ (s.im = true → t.im = true) := by
  rcases step_cases h with ⟨hk, -⟩ | ⟨-, rfl⟩ | ⟨-, -, hu, rfl⟩ | ⟨-, hidle, -⟩ | ⟨-, hwait, -⟩
  · exact absurd hk hr
  · exact ⟨hs, usecBody_rsp _, id⟩
  · exact ⟨hs, takeInterrupt_rsp _, fun hm => absurd (hm.symm.trans hu) (by decide)⟩
  · exact absurd (hs.symm.trans hidle) (by decide)
  · exact absurd (hs.symm.trans hwait) (by decide)

/-- FAIL, said forwards (R90). -/
theorem exec_fail (s : State) : exec .fail s = .next { s with seq := .halt, rsp := none } := by rfl

/-- Settles O38: FAIL's step by `exec_fail`, the outputs by `exec_seq`, and every later step by `step_keeps_halt`. -/
theorem failHaltsTheForeground : Obligations.FailHaltsTheForeground := by
  unfold Obligations.FailHaltsTheForeground
  refine ⟨(decode_eq_ok_iff _ .fail).2 rfl, rfl, fun s => ⟨exec_fail s, fun t ht => ?_, enabled_cmd_of_ne_idle,
    fun t hs h hr => step_keeps_halt hs h hr⟩⟩
  have hhalt : t.seq = .halt := exec_seq ht
  exact ⟨halted_of_halt hhalt, cmdReady_of_ne_idle (by simp [hhalt])⟩

/-- Settles O39: the outputs and enabling conditions because SEQ is neither IDLE nor WAIT, the step by `step_keeps_halt` where it is
no `Reset`. -/
theorem haltIsLeftOnlyByReset : Obligations.HaltIsLeftOnlyByReset := by
  unfold Obligations.HaltIsLeftOnlyByReset
  intro s hs
  have hidle : s.seq ≠ .idle := by simp [hs]
  have hwait : s.seq ≠ .wait := by simp [hs]
  refine ⟨halted_of_halt hs, cmdReady_of_ne_idle hidle, completed_of_ne_idle hidle, enabled_cmd_of_ne_idle hidle,
    enabled_poll_of_ne_wait hwait, rfl, enabled_irq_iff s, fun t h => ?_⟩
  by_cases hr : nextKind s = .reset
  · rw [step_of_enabled hr rfl] at h
    obtain rfl : resetBody (takeTurn s) = t := Host.Outcome.next.inj h
    exact .inl ⟨hr, resetBody_seq _⟩
  · obtain ⟨hhalt, hsilent, -⟩ := step_keeps_halt hs h hr
    exact .inr ⟨hhalt, hsilent⟩

end Sys2Proof.Machine
end

section
namespace Sys2Proof.Machine

/-! ### The microsecond (R102) -/

@[simp] theorem intervalElapses_iff (period icnt : Micros) : intervalElapses period icnt = true ↔ icnt + 1#32 = period :=
  decide_eq_true_iff

/-- PEND after a microsecond, as one formula: it was set, or the armed facility's interval elapses (R102). -/
theorem usecBodyWith_pend_eq_or (period : Micros) (s : State) :
    (usecBodyWith period s).pend = (s.pend || (s.armed && intervalElapses period s.icnt)) := by
  rw [usecBodyWith_pend]
  cases s.armed with
  | false => simp
  | true => cases intervalElapses period s.icnt <;> simp

/-- `Usec`, said forwards: the two counters and PEND are written, and no response is emitted (R102). -/
theorem usecBody_eq (s : State) :
    usecBody s =
      { s with
        us := if s.run then s.us + 1#32 else s.us
        icnt := if s.armed then (if s.icnt + 1#32 = rebasePeriod then 0#32 else s.icnt + 1#32) else s.icnt
        pend := s.pend || (s.armed && decide (s.icnt + 1#32 = rebasePeriod))
        rsp := none } := by
  have hicnt : (usecBodyWith rebasePeriod s).icnt =
      if s.armed then (if s.icnt + 1#32 = rebasePeriod then 0#32 else s.icnt + 1#32) else s.icnt := by
    simp only [usecBodyWith_icnt, intervalElapses_iff]
  have hpend := usecBodyWith_pend_eq_or rebasePeriod s
  rw [intervalElapses] at hpend
  rw [← hicnt, ← hpend]
  rfl

/-- Every `Usec` step is enabled, in every state (R102). -/
theorem step_of_usec {s : State} (hk : nextKind s = .usec) : step s = .next (usecBody (takeTurn s)) :=
  step_of_enabled hk rfl

/-! ### The counters in every other step -/

theorem exec_us {i : Instr} {s t : State} (h : exec i s = .next t) : t.us = s.us := by
  rcases exec_cases h with ⟨rfl, rfl⟩ | ⟨rfl, rfl⟩ | ⟨d, rfl, rfl⟩ | ⟨d, rfl, rfl⟩ | ⟨d, rfl, rfl⟩ | ⟨rfl, rfl⟩ | ⟨rfl, rfl⟩ |
    ⟨rfl, rfl⟩ <;> rfl

/-- Of the instructions, INIT alone writes ICNT, and it writes 0 (R70, R22). -/
theorem exec_icnt {i : Instr} {s t : State} (h : exec i s = .next t) : t.icnt = s.icnt ∨ t.icnt = 0#32 := by
  rcases exec_cases h with ⟨rfl, rfl⟩ | ⟨rfl, rfl⟩ | ⟨d, rfl, rfl⟩ | ⟨d, rfl, rfl⟩ | ⟨d, rfl, rfl⟩ | ⟨rfl, rfl⟩ | ⟨rfl, rfl⟩ |
    ⟨rfl, rfl⟩
  · exact .inr rfl
  all_goals exact .inl rfl

theorem execWord_us {w : CmdWord} {s t : State} (h : execWord w s = .next t) : t.us = s.us := by
  rcases execWord_cases h with ⟨i, -, hi⟩ | ⟨r, -, rfl⟩
  · exact exec_us hi
  · exact noResponse_us s

theorem execWord_icnt {w : CmdWord} {s t : State} (h : execWord w s = .next t) : t.icnt = s.icnt ∨ t.icnt = 0#32 := by
  rcases execWord_cases h with ⟨i, -, hi⟩ | ⟨r, -, rfl⟩
  · exact exec_icnt hi
  · exact .inl (noResponse_icnt s)

@[simp] theorem pollBody_us (s : State) : (pollBody s).us = s.us := by
  simp only [pollBody_eq, apply_ite State.us, ite_self]

@[simp] theorem pollBody_icnt (s : State) : (pollBody s).icnt = s.icnt := by
  simp only [pollBody_eq, apply_ite State.icnt, ite_self]

@[simp] theorem takeInterrupt_us (s : State) : (takeInterrupt s).us = 0#32 := by rfl

@[simp] theorem takeInterrupt_icnt (s : State) : (takeInterrupt s).icnt = s.icnt := by rfl

/-- Only a `Usec` step makes time pass: `Reset` zeroes both counters, the rebase zeroes US, INIT zeroes ICNT, and nothing else writes
either (R102, R22). -/
theorem step_counters_of_ne_usec {s t : State} (h : step s = .next t) (hk : nextKind s ≠ .usec) :
    (t.us = s.us ∨ t.us = 0#32) ∧ (t.icnt = s.icnt ∨ t.icnt = 0#32) := by
  rcases step_cases h with ⟨-, rfl⟩ | ⟨husec, -⟩ | ⟨-, -, -, rfl⟩ | ⟨-, -, w, ws, -, hw⟩ | ⟨-, -, rfl⟩
  · exact ⟨.inr (resetBody_us _), .inr (resetBody_icnt _)⟩
  · exact absurd husec hk
  · exact ⟨.inr (takeInterrupt_us _), .inl (takeInterrupt_icnt _)⟩
  · have hus := execWord_us hw
    have hicnt := execWord_icnt hw
    exact ⟨.inl hus, hicnt⟩
  · exact ⟨.inl (pollBody_us _), .inl (pollBody_icnt _)⟩

/-- Settles O40: the `Usec` step by `usecBody_eq`, every other step by `step_counters_of_ne_usec`. -/
theorem usecAdvancesTheCounters : Obligations.UsecAdvancesTheCounters := by
  unfold Obligations.UsecAdvancesTheCounters
  refine ⟨fun s hk => ?_, fun s t h hk => step_counters_of_ne_usec h hk⟩
  rw [step_of_usec hk, usecBody_eq]
  rfl

end Sys2Proof.Machine
end

section
namespace Sys2Proof.Machine

open Safety

/-! ### Reset (R120) -/

/-- Every `Reset` step is enabled, in every state (R120). -/
theorem step_of_reset {s : State} (hk : nextKind s = .reset) : step s = .next (resetBody (takeTurn s)) :=
  step_of_enabled hk rfl

@[simp] theorem resetBody_cmdReady (s : State) : (resetBody s).cmdReady = true := by rfl

@[simp] theorem resetBody_irqEnable (s : State) : (resetBody s).irqEnable = true := by rfl

@[simp] theorem resetBody_halted (s : State) : (resetBody s).halted = false := by rfl

/-! ### The stopped machine: the counter stopped, the facility disarmed, nothing pending -/

/-- Of the instructions, INIT alone writes RUN and ARMED (R22). -/
theorem exec_run_armed_of_ne_init {i : Instr} {s t : State} (hi : i ≠ .init) (h : exec i s = .next t) :
    t.run = s.run ∧ t.armed = s.armed := by
  rcases exec_cases h with ⟨hinit, -⟩ | ⟨rfl, rfl⟩ | ⟨d, rfl, rfl⟩ | ⟨d, rfl, rfl⟩ | ⟨d, rfl, rfl⟩ | ⟨rfl, rfl⟩ | ⟨rfl, rfl⟩ |
    ⟨rfl, rfl⟩
  · exact absurd hinit hi
  all_goals exact ⟨rfl, rfl⟩

@[simp] theorem pollBody_run (s : State) : (pollBody s).run = s.run := by
  simp only [pollBody_eq, apply_ite State.run, ite_self]

@[simp] theorem pollBody_armed (s : State) : (pollBody s).armed = s.armed := by
  simp only [pollBody_eq, apply_ite State.armed, ite_self]

/-- A disarmed facility raises no request (R102, R103). -/
theorem usecBody_pend_of_disarmed {s : State} (ha : s.armed = false) : (usecBody s).pend = s.pend := by
  simp [usecBody, ha]

/-- Short of INIT, a stopped machine stays stopped: a disarmed facility raises nothing, `Irq` needs a pending request, and RUN and ARMED
are written by `Reset` and INIT alone (R120, R22). -/
theorem step_keeps_stopped_of_ne_init {s t : State} (hrun : s.run = false) (harmed : s.armed = false) (hpend : s.pend = false)
    (hinit : nextInstr? s ≠ some .init) (h : step s = .next t) : t.run = false ∧ t.armed = false ∧ t.pend = false := by
  rcases step_cases h with ⟨-, rfl⟩ | ⟨-, rfl⟩ | ⟨-, hp, -⟩ | ⟨hk, hs, w, ws, ho, hw⟩ | ⟨-, -, rfl⟩
  · exact ⟨resetBody_run _, resetBody_armed _, resetBody_pend _⟩
  · exact ⟨hrun, harmed, (usecBody_pend_of_disarmed (s := takeTurn s) harmed).trans hpend⟩
  · exact absurd (hpend.symm.trans hp) (by decide)
  · have hpend' : t.pend = false := (execWord_pend hw).trans hpend
    rcases execWord_cases hw with ⟨i, hd, hi⟩ | ⟨r, -, rfl⟩
    · have hne : i ≠ .init := fun heq => hinit (heq ▸ nextInstr?_eq hk hs ho hd)
      obtain ⟨hr, ha⟩ := exec_run_armed_of_ne_init hne hi
      exact ⟨hr.trans hrun, ha.trans harmed, hpend'⟩
    · exact ⟨hrun, harmed, hpend'⟩
  · exact ⟨(pollBody_run _).trans hrun, (pollBody_armed _).trans harmed, (pollBody_pend _).trans hpend⟩

/-- Settles O43: the `Reset` step by the laws of `resetBody`, each later step by `step_keeps_stopped_of_ne_init`. -/
theorem resetStepClearsEveryRegister : Obligations.ResetStepClearsEveryRegister := by
  unfold Obligations.ResetStepClearsEveryRegister
  refine ⟨fun s hk => ⟨_, step_of_reset hk, ?_⟩, fun s t ⟨hrun, harmed, hpend⟩ hinit h =>
    step_keeps_stopped_of_ne_init hrun harmed hpend hinit h⟩
  exact ⟨resetBody_base _, resetBody_us _, resetBody_run _, resetBody_depth _, resetBody_im _, resetBody_armed _,
    resetBody_icnt _, resetBody_pend _, resetBody_target _, resetBody_seq _, resetBody_rsp _, resetBody_cmdReady _,
    resetBody_irqEnable _, resetBody_halted _⟩

end Sys2Proof.Machine
end

section
namespace Sys2Proof

/-! ### Words and their written forms -/

/-- Settles O3: `decode_eq_ok_iff`. -/
theorem decodeIsTheInverseOfEncode : Obligations.DecodeIsTheInverseOfEncode := by
  unfold Obligations.DecodeIsTheInverseOfEncode
  exact decode_eq_ok_iff

/-- Settles O1: the eight instructions by `decode_eq_ok_iff`, the four reserved words by evaluating the decoder. -/
theorem workedEncodingsDecode : Obligations.WorkedEncodingsDecode := by
  unfold Obligations.WorkedEncodingsDecode
  have hdecode := fun w i => (decode_eq_ok_iff w i).2
  exact ⟨hdecode _ _ rfl, hdecode _ _ rfl, hdecode _ _ rfl, hdecode _ _ rfl, hdecode _ _ rfl, hdecode _ _ rfl,
    hdecode _ _ rfl, hdecode _ _ rfl, rfl, rfl, rfl, rfl⟩

/-- The five bytes of a word, joined in the order they are written, are the word (R31). -/
theorem wordOfBytes?_bytesOfWord (w : CmdWord) : wordOfBytes? (bytesOfWord w) = some w := by
  have h32 : w.extractLsb' 32 8 ++ w.extractLsb' 24 8 = w.extractLsb' 24 16 :=
    BitVec.extractLsb'_append_extractLsb'_eq_extractLsb' rfl
  have h24 : w.extractLsb' 24 16 ++ w.extractLsb' 16 8 = w.extractLsb' 16 24 :=
    BitVec.extractLsb'_append_extractLsb'_eq_extractLsb' rfl
  have h16 : w.extractLsb' 16 24 ++ w.extractLsb' 8 8 = w.extractLsb' 8 32 :=
    BitVec.extractLsb'_append_extractLsb'_eq_extractLsb' rfl
  have h8 : w.extractLsb' 8 32 ++ w.extractLsb' 0 8 = w :=
    (BitVec.extractLsb'_append_extractLsb'_eq_extractLsb' rfl).trans BitVec.extractLsb'_eq_self
  simp only [wordOfBytes?, bytesOfWord, h32, h24, h16, h8]

theorem wordOfBytes?_of_length_ne {bs : List (BitVec 8)} (h : bs.length ≠ 5) : wordOfBytes? bs = none := by
  unfold wordOfBytes?
  split
  · exact absurd rfl h
  · rfl

/-- Settles O5: `wordOfBytes?_bytesOfWord`, and `wordOfBytes?_of_length_ne` for the other lengths. -/
theorem writtenBytesReadBackAsTheWord : Obligations.WrittenBytesReadBackAsTheWord := by
  unfold Obligations.WrittenBytesReadBackAsTheWord
  exact ⟨fun w => ⟨wordOfBytes?_bytesOfWord w, rfl⟩, fun bs h => wordOfBytes?_of_length_ne h⟩

end Sys2Proof
end

section
namespace Sys2Proof.Machine

/-! ### The decoded instruction runs -/

theorem execWord_of_decoded {w : CmdWord} {i : Instr} (hd : decode w = .ok i) (s : State) : execWord w s = exec i s := by
  simp only [execWord, hd]

/-- A table word that reads as an instruction is a command word that decodes to it. -/
theorem decode_tableWord {nbits w : Nat} {i : Instr} (h : decodeTableWord nbits w = some i) :
    decode (tableWord nbits w) = .ok i := by
  unfold decodeTableWord at h
  split at h
  · cases hd : decode (tableWord nbits w) with
    | ok j => rw [hd] at h; exact congrArg Except.ok (Option.some.inj h)
    | error r => rw [hd] at h; cases h
  · cases h

/-- Settles O7: `step_of_offered` and the decoded word; the placed word is offered first, to the requester's turn, with SEQ at IDLE. -/
theorem stepRunsTheDecodedInstruction : Obligations.StepRunsTheDecodedInstruction := by
  unfold Obligations.StepRunsTheDecodedInstruction
  refine ⟨fun s w ws i hk hs ho hd => ?_, fun s nbits w i h => ?_⟩
  · rw [step_of_offered hk hs ho, execWord_of_decoded hd]
  · rw [step_of_offered (s := s.withFetchWord nbits w) rfl rfl rfl, execWord_of_decoded (decode_tableWord h)]
    rfl

end Sys2Proof.Machine
end

section
namespace Sys2Proof.Machine

open Safety

/-! ### Which steps happen -/

/-- Every instruction has a meaning in every state (R100). -/
theorem exec_answers (i : Instr) (s : State) : ∃ t, exec i s = .next t := by
  cases i <;> exact ⟨_, rfl⟩

theorem execWord_answers (w : CmdWord) (s : State) : ∃ t, execWord w s = .next t := by
  cases hd : decode w with
  | ok i => exact (execWord_of_decoded hd s).symm ▸ exec_answers i s
  | error r => exact ⟨_, execWord_of_reserved hd s⟩

theorem enabled_cmd_iff (s : State) : enabled .cmd s = true ↔ s.seq = .idle ∧ s.offered ≠ [] := by
  simp [enabled, State.cmdValid, State.cmdReady, and_comm]

theorem enabled_poll_iff (s : State) : enabled .poll s = true ↔ s.seq = .wait := decide_eq_true_iff

theorem perform_answers {k : StepKind} {s : State} (h : enabled k s = true) : ∃ t, perform k s = .next t := by
  cases k with
  | reset => exact ⟨_, rfl⟩
  | usec => exact ⟨_, rfl⟩
  | irq => exact ⟨_, rfl⟩
  | cmd =>
    obtain ⟨-, hoffered⟩ := (enabled_cmd_iff s).1 h
    obtain ⟨w, ws, ho⟩ := List.exists_cons_of_ne_nil hoffered
    simpa only [perform, performCmd, ho] using execWord_answers w (consumeWord s)
  | poll => exact ⟨_, rfl⟩

/-- No enabling condition reads the schedule (R8). -/
theorem enabled_takeTurn (k : StepKind) (s : State) : enabled k (takeTurn s) = enabled k s := by
  cases k <;> rfl

theorem step_answers_iff (s : State) : (∃ t, step s = .next t) ↔ enabled (nextKind s) s = true := by
  refine ⟨fun ⟨t, h⟩ => (step_eq_next h).1, fun he => ?_⟩
  rw [step_of_enabled rfl he]
  exact perform_answers ((enabled_takeTurn _ s).trans he)

theorem step_of_not_enabled {s : State} (h : enabled (nextKind s) s = false) :
    step s = .refused (.stepNotEnabled (nextKind s)) := by
  simp [step, advance, h]

/-- Settles O8: `step_answers_iff` with each kind's enabling condition; what is not enabled is refused by `step_of_not_enabled`. -/
theorem stepHappensExactlyWhereEnabled : Obligations.StepHappensExactlyWhereEnabled := by
  unfold Obligations.StepHappensExactlyWhereEnabled
  refine ⟨fun s => ?_, exec_answers⟩
  have hstep := step_answers_iff s
  refine ⟨fun hk => ⟨_, step_of_reset hk⟩, fun hk => ⟨_, step_of_usec hk⟩, fun hk => ?_, fun hk => ?_, fun hk => ?_,
    fun hnone => step_of_not_enabled (Bool.eq_false_iff.2 (mt hstep.2 hnone))⟩
  · rw [hstep, hk, enabled_irq_iff]
  · rw [hstep, hk, enabled_cmd_iff]
  · rw [hstep, hk, enabled_poll_iff]

/-! ### What is offered -/

theorem exec_offered {i : Instr} {s t : State} (h : exec i s = .next t) : t.offered = s.offered := by
  rcases exec_cases h with ⟨rfl, rfl⟩ | ⟨rfl, rfl⟩ | ⟨d, rfl, rfl⟩ | ⟨d, rfl, rfl⟩ | ⟨d, rfl, rfl⟩ | ⟨rfl, rfl⟩ | ⟨rfl, rfl⟩ |
    ⟨rfl, rfl⟩ <;> rfl

theorem execWord_offered {w : CmdWord} {s t : State} (h : execWord w s = .next t) : t.offered = s.offered := by
  rcases execWord_cases h with ⟨i, -, hi⟩ | ⟨r, -, rfl⟩
  · exact exec_offered hi
  · exact noResponse_offered s

@[simp] theorem pollBody_offered (s : State) : (pollBody s).offered = s.offered := by
  simp only [pollBody_eq, apply_ite State.offered, ite_self]

/-- Only a `Cmd` step consumes a word, and it happens in IDLE only (R48). -/
theorem step_offered {s t : State} (h : step s = .next t) :
    t.offered = s.offered ∨ (nextKind s = .cmd ∧ s.seq = .idle ∧ t.offered = s.offered.tail) := by
  rcases step_cases h with ⟨-, rfl⟩ | ⟨-, rfl⟩ | ⟨-, -, -, rfl⟩ | ⟨hk, hs, w, ws, -, hw⟩ | ⟨-, -, rfl⟩
  · exact .inl (resetBody_offered _)
  · exact .inl rfl
  · exact .inl rfl
  · exact .inr ⟨hk, hs, execWord_offered hw⟩
  · exact .inl (pollBody_offered _)

/-- Settles O9: the `Cmd` step is not enabled out of IDLE, and `step_offered`. -/
theorem offeredWordWaitsUntilIdle : Obligations.OfferedWordWaitsUntilIdle := by
  unfold Obligations.OfferedWordWaitsUntilIdle
  refine ⟨fun s => decide_eq_true_iff, fun s hk hs => ?_, fun s t h => step_offered h⟩
  rw [step_of_not_enabled (hk ▸ enabled_cmd_of_ne_idle hs), hk]

/-! ### The writers of each register (R22) -/

/-- The instructions that R22 lists as writing each register. -/
theorem exec_writers {i : Instr} {s t : State} (h : exec i s = .next t) :
    (t.base ≠ s.base → i = .init) ∧ (t.run ≠ s.run → i = .init) ∧ (t.depth ≠ s.depth → i = .enter ∨ i = .exit) ∧
    (t.im ≠ s.im → i = .now ∨ i = .enter ∨ i = .exit ∨ ∃ d, i = .delta d ∨ i = .check d) ∧
    (t.armed ≠ s.armed → i = .init) ∧ (t.icnt ≠ s.icnt → i = .init) ∧ (t.target ≠ s.target → ∃ d, i = .wait d) ∧
    (t.seq ≠ s.seq → i = .fail ∨ ∃ d, i = .wait d) := by
  rcases exec_cases h with ⟨rfl, rfl⟩ | ⟨rfl, rfl⟩ | ⟨d, rfl, rfl⟩ | ⟨d, rfl, rfl⟩ | ⟨d, rfl, rfl⟩ | ⟨rfl, rfl⟩ | ⟨rfl, rfl⟩ |
    ⟨rfl, rfl⟩ <;> simp

@[simp] theorem pollBody_base (s : State) : (pollBody s).base = s.base := by
  simp only [pollBody_eq, apply_ite State.base, ite_self]

@[simp] theorem pollBody_depth (s : State) : (pollBody s).depth = s.depth := by
  simp only [pollBody_eq, apply_ite State.depth, ite_self]

@[simp] theorem pollBody_target (s : State) : (pollBody s).target = s.target := by
  simp only [pollBody_eq, apply_ite State.target, ite_self]

/-- A poll reads the time, and so settles IM by DEPTH (R73, R83). -/
@[simp] theorem pollBody_im (s : State) : (pollBody s).im = decide (s.depth ≠ 0#Config.depthWidth) := by
  simp only [pollBody_eq, apply_ite State.im, ite_self]

@[simp] theorem usecBody_base (s : State) : (usecBody s).base = s.base := by rfl
@[simp] theorem usecBody_us (s : State) : (usecBody s).us = if s.run then s.us + 1#32 else s.us := by rfl
@[simp] theorem usecBody_run (s : State) : (usecBody s).run = s.run := by rfl
@[simp] theorem usecBody_depth (s : State) : (usecBody s).depth = s.depth := by rfl
@[simp] theorem usecBody_im (s : State) : (usecBody s).im = s.im := by rfl
@[simp] theorem usecBody_armed (s : State) : (usecBody s).armed = s.armed := by rfl
@[simp] theorem usecBody_target (s : State) : (usecBody s).target = s.target := by rfl

@[simp] theorem takeInterrupt_base (s : State) : (takeInterrupt s).base = nowValue s := by rfl
@[simp] theorem takeInterrupt_run (s : State) : (takeInterrupt s).run = s.run := by rfl
@[simp] theorem takeInterrupt_depth (s : State) : (takeInterrupt s).depth = s.depth := by rw [takeInterrupt_eq]
@[simp] theorem takeInterrupt_armed (s : State) : (takeInterrupt s).armed = s.armed := by rfl
@[simp] theorem takeInterrupt_pend (s : State) : (takeInterrupt s).pend = false := by rfl
@[simp] theorem takeInterrupt_target (s : State) : (takeInterrupt s).target = s.target := by rfl

/-- Settles O11: step kind by step kind; the registers an agent other than the requester does not write are as before, and an
instruction's writes are those of `exec_writers`. -/
theorem registersChangeOnlyInTheirWriters : Obligations.RegistersChangeOnlyInTheirWriters := by
  unfold Obligations.RegistersChangeOnlyInTheirWriters
  intro s t h
  rcases step_cases h with ⟨hk, -⟩ | ⟨hk, rfl⟩ | ⟨hk, -, -, rfl⟩ | ⟨hk, hs, w, ws, ho, hw⟩ | ⟨hk, -, rfl⟩
  · simp [hk]
  · simp [hk]
  · simp [hk]
  · rcases execWord_cases hw with ⟨i, hd, hi⟩ | ⟨r, -, rfl⟩
    · obtain ⟨hbase, hrun, hdepth, him, harmed, hicnt, htarget, hseq⟩ := exec_writers hi
      simp only [nextInstr?_eq hk hs ho hd, Option.some.injEq]
      exact ⟨fun c => .inr (.inr (hbase c)), fun c => absurd (exec_us hi) c, fun c => .inr (hrun c),
        fun c => .inr (hdepth c), fun c => .inr (.inr (.inr (him c))), fun c => .inr (harmed c),
        fun c => .inr (.inr (hicnt c)), fun c => absurd (exec_pend hi) c, fun c => .inr (htarget c),
        fun c => .inr (.inr (hseq c))⟩
    · simp
  · simp [hk]

end Sys2Proof.Machine
end

section
namespace Sys2Proof.Machine

open Safety

/-! ### The clock: BASE, US and the periodic facility -/

/-- The registers of the time base and of the periodic facility are the same in both states. -/
structure SameClock (s t : State) : Prop where
  base_eq : t.base = s.base
  us_eq : t.us = s.us
  run_eq : t.run = s.run
  armed_eq : t.armed = s.armed
  icnt_eq : t.icnt = s.icnt
  pend_eq : t.pend = s.pend

theorem SameClock.nowValue_eq {s t : State} (h : SameClock s t) : nowValue t = nowValue s := by
  simp only [nowValue, h.base_eq, h.us_eq]

theorem SameClock.timerInv {s t : State} (h : SameClock s t) (hi : TimerInv s) : TimerInv t where
  icnt_lt := h.icnt_eq ▸ hi.icnt_lt
  armed_of_pend hp := h.armed_eq.trans (hi.armed_of_pend (h.pend_eq ▸ hp))
  armed_eq_run := h.armed_eq.trans (hi.armed_eq_run.trans h.run_eq.symm)
  stopped_at_zero hr := by
    rw [h.base_eq, h.us_eq]
    exact hi.stopped_at_zero (h.run_eq ▸ hr)

theorem sameBlock.sameClock {t s' : State} (h : sameBlock t s') : SameClock t s' :=
  ⟨h.base_eq, h.us_eq, h.run_eq, h.armed_eq, h.icnt_eq, h.pend_eq⟩

/-- Of the instructions, INIT alone touches the clock (R22). -/
theorem exec_sameClock {i : Instr} {s t : State} (hi : i ≠ .init) (h : exec i s = .next t) : SameClock s t := by
  rcases exec_cases h with ⟨hinit, -⟩ | ⟨rfl, rfl⟩ | ⟨d, rfl, rfl⟩ | ⟨d, rfl, rfl⟩ | ⟨d, rfl, rfl⟩ | ⟨rfl, rfl⟩ | ⟨rfl, rfl⟩ |
    ⟨rfl, rfl⟩
  · exact absurd hinit hi
  all_goals exact ⟨rfl, rfl, rfl, rfl, rfl, rfl⟩

theorem takeTurn_sameClock (s : State) : SameClock s (takeTurn s) := ⟨rfl, rfl, rfl, rfl, rfl, rfl⟩

theorem pollBody_sameClock (s : State) : SameClock s (pollBody s) :=
  ⟨pollBody_base s, pollBody_us s, pollBody_run s, pollBody_armed s, pollBody_icnt s, pollBody_pend s⟩

/-- Everything a step can do to the clock: `Reset`, a microsecond, the rebase and INIT write it, and no other step does (R22). -/
theorem step_clock_cases {s t : State} (h : step s = .next t) :
    (nextKind s = .reset ∧ t = resetBody (takeTurn s)) ∨
    (nextKind s = .usec ∧ t = usecBody (takeTurn s)) ∨
    (nextKind s = .irq ∧ s.pend = true ∧ s.im = false ∧ t = takeInterrupt (takeTurn s)) ∨
    (nextKind s = .cmd ∧ nextInstr? s = some .init ∧ exec .init (consumeWord (takeTurn s)) = .next t) ∨
    ((nextKind s = .cmd ∨ nextKind s = .poll) ∧ nextInstr? s ≠ some .init ∧ SameClock s t) := by
  rcases step_cases h with hreset | husec | hirq | ⟨hk, hs, w, ws, ho, hw⟩ | ⟨hk, -, rfl⟩
  · exact .inl hreset
  · exact .inr (.inl husec)
  · exact .inr (.inr (.inl hirq))
  · refine .inr (.inr (.inr ?_))
    rcases execWord_cases hw with ⟨i, hd, hi⟩ | ⟨r, hd, rfl⟩
    · have hnext := nextInstr?_eq hk hs ho hd
      by_cases hinit : i = .init
      · subst hinit
        exact .inl ⟨hk, hnext, hi⟩
      · obtain ⟨hbase, hus, hrun, harmed, hicnt, hpend⟩ := exec_sameClock hinit hi
        exact .inr ⟨.inl hk, by simpa [hnext] using hinit, hbase, hus, hrun, harmed, hicnt, hpend⟩
    · exact .inr ⟨.inl hk, by simp [nextInstr?_of_reserved ho hd], rfl, rfl, rfl, rfl, rfl, rfl⟩
  · obtain ⟨hbase, hus, hrun, harmed, hicnt, hpend⟩ := pollBody_sameClock (takeTurn s)
    exact .inr (.inr (.inr (.inr ⟨.inr hk, by simp [nextInstr?_of_ne_cmd, hk], hbase, hus, hrun, harmed, hicnt, hpend⟩)))

/-! ### The timer invariant (R23) -/

theorem resetBody_timerInv (s : State) : TimerInv (resetBody s) where
  icnt_lt := Config.rebasePeriodUs_in_range.1
  armed_of_pend hp := by simp at hp
  armed_eq_run := rfl
  stopped_at_zero _ := ⟨rfl, rfl⟩

/-- Settles O46: `resetBody_timerInv` for the timer invariant; the others are read off the reset values. -/
theorem invariantsHoldAfterReset : Obligations.InvariantsHoldAfterReset := by
  unfold Obligations.InvariantsHoldAfterReset
  refine ⟨resetBody_reset ▸ resetBody_timerInv State.reset, ?_, ?_, fun l => ?_⟩
  · simp [MaskIffDepth, State.reset]
  · simp [UsNominal, State.reset]
  · simp [UsWithinLatency, State.reset]

/-- A microsecond register counts up by one short of its wrap. -/
theorem micros_add_one_toNat {m : Micros} (h : m.toNat < 4294967295) : (m + 1#32).toNat = m.toNat + 1 := by
  simp only [BitVec.toNat_add, BitVec.toNat_ofNat, Config.usWidth]
  omega

/-- ICNT stays below the period: it reloads where it would reach it (R102). -/
theorem usecBodyWith_icnt_lt {period : Micros} {s : State} (h : s.icnt.toNat < period.toNat) :
    (usecBodyWith period s).icnt.toNat < period.toNat := by
  rw [usecBodyWith_icnt]
  split
  · by_cases hlast : s.icnt + 1#32 = period
    · rw [if_pos ((intervalElapses_iff _ _).2 hlast)]
      exact Nat.zero_lt_of_lt h
    · have hlt := Config.micros_lt period
      have hnext := micros_add_one_toNat (m := s.icnt) (by omega)
      rw [if_neg (mt (intervalElapses_iff _ _).1 hlast)]
      rw [← BitVec.toNat_inj] at hlast
      omega
  · exact h

/-- Settles O47: `usecBodyWith_icnt_lt`, for any period. -/
theorem intervalCounterStaysBelowAnyPeriod : Obligations.IntervalCounterStaysBelowAnyPeriod := by
  unfold Obligations.IntervalCounterStaysBelowAnyPeriod
  exact fun period s _ _ h => usecBodyWith_icnt_lt h

theorem usecBody_timerInv {s : State} (hi : TimerInv s) : TimerInv (usecBody s) where
  icnt_lt := by
    have hlt : s.icnt.toNat < rebasePeriod.toNat := by simpa using hi.icnt_lt
    simpa [usecBody] using usecBodyWith_icnt_lt hlt
  armed_of_pend hp := by
    cases harmed : s.armed with
    | true => exact harmed
    | false => exact hi.armed_of_pend ((usecBody_pend_of_disarmed harmed).symm.trans hp)
  armed_eq_run := hi.armed_eq_run
  stopped_at_zero hr := by
    obtain ⟨hbase, hus⟩ := hi.stopped_at_zero hr
    have hr : s.run = false := hr
    simp [hr, hbase, hus]

/-- A pending request says that the clock runs, so the stopped clock's value is nobody's concern in a rebase. -/
theorem takeInterrupt_timerInv {s : State} (hi : TimerInv s) (hp : s.pend = true) : TimerInv (takeInterrupt s) where
  icnt_lt := hi.icnt_lt
  armed_of_pend hp' := by simp at hp'
  armed_eq_run := hi.armed_eq_run
  stopped_at_zero hr := by
    have hrun : s.run = true := hi.armed_eq_run.symm.trans (hi.armed_of_pend hp)
    exact absurd (hrun.symm.trans hr) (by decide)

theorem exec_init_timerInv {s t : State} (h : exec .init s = .next t) : TimerInv t := by
  rw [exec_init] at h
  cases h
  exact ⟨Config.rebasePeriodUs_in_range.1, fun _ => rfl, rfl, fun hr => by cases hr⟩

theorem step_keeps_timerInv {s t : State} (hi : TimerInv s) (h : step s = .next t) : TimerInv t := by
  have hturn : TimerInv (takeTurn s) := (takeTurn_sameClock s).timerInv hi
  rcases step_clock_cases h with ⟨-, rfl⟩ | ⟨-, rfl⟩ | ⟨-, hp, -, rfl⟩ | ⟨-, -, hinit⟩ | ⟨-, -, hsame⟩
  · exact resetBody_timerInv _
  · exact usecBody_timerInv hturn
  · exact takeInterrupt_timerInv hturn hp
  · exact exec_init_timerInv hinit
  · exact hsame.timerInv hi

/-- Settles O45: `step_keeps_timerInv`. -/
theorem everyStepKeepsTheTimerInvariant : Obligations.EveryStepKeepsTheTimerInvariant := by
  unfold Obligations.EveryStepKeepsTheTimerInvariant
  exact fun s t => step_keeps_timerInv

/-! ### Before INIT (R123) -/

theorem nowValue_of_stopped {s : State} (hi : TimerInv s) (hr : s.run = false) : nowValue s = 0#32 := by
  obtain ⟨hbase, hus⟩ := hi.stopped_at_zero hr
  rw [nowValue_of_base_zero hbase, hus, elapsedTicks_zero]

theorem pend_of_stopped {s : State} (hi : TimerInv s) (hr : s.run = false) : s.pend = false := by
  have harmed : s.armed = false := hi.armed_eq_run.trans hr
  exact Bool.eq_false_iff.2 fun hp => absurd (harmed.symm.trans (hi.armed_of_pend hp)) (by decide)

theorem step_keeps_run_of_stopped {s t : State} (hi : TimerInv s) (hr : s.run = false) (hinit : nextInstr? s ≠ some .init)
    (h : step s = .next t) : t.run = false :=
  (step_keeps_stopped_of_ne_init hr (hi.armed_eq_run.trans hr) (pend_of_stopped hi hr) hinit h).1

/-- Settles O52: the clock stays stopped by `step_keeps_run_of_stopped`, and the timer invariant says what a stopped clock reads. -/
theorem clockStandsStillBeforeInit : Obligations.ClockStandsStillBeforeInit := by
  unfold Obligations.ClockStandsStillBeforeInit
  intro s t hi hr hinit h
  have hrun := step_keeps_run_of_stopped hi hr hinit h
  have hinv := step_keeps_timerInv hi h
  exact ⟨hrun, nowValue_of_stopped hinv hrun, pend_of_stopped hinv hrun⟩

end Sys2Proof.Machine
end

section
namespace Sys2Proof.Machine

open Safety

/-! ### The tick count -/

theorem elapsedTicks_eq_ofNat {us : Micros} (h : us.toNat < 2 ^ 31) : elapsedTicks us = BitVec.ofNat 32 (us.toNat / 64) := by
  apply BitVec.eq_of_toNat_eq
  rw [elapsedTicks_toNat h, BitVec.toNat_ofNat]
  exact (Nat.mod_eq_of_lt ((Nat.div_le_self _ _).trans_lt (Config.micros_lt us))).symm

theorem nowValue_eq_ofNat {s : State} (h : UsNominal s) : nowValue s = s.base + BitVec.ofNat 32 (s.us.toNat / 64) := by
  rw [nowValue, elapsedTicks_eq_ofNat h]

/-- In the nominal range, short of BASE's wrap, the tick count is a sum of numbers (R72). -/
theorem nowValue_toNat {s : State} (h : UsNominal s) (hbase : s.base.toNat + s.us.toNat / 64 < 2 ^ 32) :
    (nowValue s).toNat = s.base.toNat + s.us.toNat / 64 := by
  rw [nowValue, BitVec.toNat_add, elapsedTicks_toNat h]
  exact Nat.mod_eq_of_lt hbase

/-- Settles O19: `exec_now`; the tick count is BASE plus the shifted US by definition. -/
theorem nowRespondsTheTickCount : Obligations.NowRespondsTheTickCount := by
  unfold Obligations.NowRespondsTheTickCount
  exact ⟨(decode_eq_ok_iff _ .now).2 rfl, rfl, exec_now⟩

/-- The answer to a command reads of the state its tick count alone (R25). -/
theorem responseOf_congr {s t : State} (i : Instr) (h : nowValue s = nowValue t) : responseOf i s = responseOf i t := by
  cases i <;> simp only [responseOf, deltaBody_eq, h]

/-- Settles O37: `responseOf_congr`. -/
theorem responsesDependOnTheTickCountAlone : Obligations.ResponsesDependOnTheTickCountAlone := by
  unfold Obligations.ResponsesDependOnTheTickCountAlone
  intro i s t a b hnow ha hb
  rw [exec_rsp ha, exec_rsp hb, responseOf_congr i hnow]

/-! ### The rebase -/

theorem step_of_irq {s : State} (hk : nextKind s = .irq) (hp : s.pend = true) (hm : s.im = false) :
    step s = .next (takeInterrupt (takeTurn s)) :=
  step_of_enabled hk ((enabled_irq_iff s).2 ⟨hp, hm⟩)

theorem step_eq_takeInterrupt {s t : State} (hk : nextKind s = .irq) (h : step s = .next t) :
    t = takeInterrupt (takeTurn s) := by
  obtain ⟨hp, hm⟩ := (enabled_irq_iff s).1 (hk ▸ (step_eq_next h).1)
  rw [step_of_irq hk hp hm] at h
  exact (Host.Outcome.next.inj h).symm

/-- What BASE gains is what the zeroed US loses (R77 item 2). -/
@[simp] theorem nowValue_takeInterrupt (s : State) : nowValue (takeInterrupt s) = nowValue s := by
  rw [nowValue, takeInterrupt_base, takeInterrupt_us, elapsedTicks_zero, BitVec.add_zero]

/-- Settles O21: the enabled step is `takeInterrupt`, whose registers `takeInterrupt_eq` gives. -/
theorem interruptFoldsTheCounterIntoBase : Obligations.InterruptFoldsTheCounterIntoBase := by
  unfold Obligations.InterruptFoldsTheCounterIntoBase
  intro s hk hp hm
  rw [step_of_irq hk hp hm, takeInterrupt_eq]
  rfl

/-- A poll's outcome depends on the tick count, the latched deadline and SEQ alone (R83). -/
theorem pollBody_congr {s t : State} (hnow : nowValue s = nowValue t) (htarget : s.target = t.target) (hseq : s.seq = t.seq) :
    (pollBody s).rsp = (pollBody t).rsp ∧ (pollBody s).seq = (pollBody t).seq := by
  simp only [pollBody_eq, hnow, htarget]
  split
  · exact ⟨rfl, rfl⟩
  · exact ⟨rfl, hseq⟩

/-- Settles O22: the tick count by `nowValue_takeInterrupt`; what is answered depends on it alone. -/
theorem rebaseIsTransparent : Obligations.RebaseIsTransparent := by
  unfold Obligations.RebaseIsTransparent
  intro s t hk h
  obtain rfl := step_eq_takeInterrupt hk h
  have hnow : nowValue (takeInterrupt (takeTurn s)) = nowValue s := nowValue_takeInterrupt _
  refine ⟨hnow, fun i a b ha hb => ?_, pollBody_congr hnow.symm rfl rfl⟩
  rw [exec_rsp ha, exec_rsp hb, responseOf_congr i hnow]

/-- In microseconds a rebase loses the remainder of the division by 64 (R137). -/
theorem takeInterrupt_discards {s : State} (hus : UsNominal s) (hbase : s.base.toNat + s.us.toNat / 64 < 2 ^ 32) :
    64 * (takeInterrupt s).base.toNat + (takeInterrupt s).us.toNat + s.us.toNat % 64 = 64 * s.base.toNat + s.us.toNat := by
  have hzero : (takeInterrupt s).us.toNat = 0 := by rw [takeInterrupt_us]; rfl
  rw [takeInterrupt_base, nowValue_toNat hus hbase, hzero]
  omega

/-- Settles O23: `takeInterrupt_discards`. -/
theorem rebaseDiscardsTheSubTickRemainder : Obligations.RebaseDiscardsTheSubTickRemainder := by
  unfold Obligations.RebaseDiscardsTheSubTickRemainder
  intro s t hk h hus hbase
  obtain rfl := step_eq_takeInterrupt hk h
  exact takeInterrupt_discards (s := takeTurn s) hus hbase

/-- Settles O17: the mask disables `Irq`, so PEND is kept by `step_keeps_pend_of_masked`, and of the steps that write BASE only
`Reset` and INIT are left. -/
theorem maskHoldsOffTheRebase : Obligations.MaskHoldsOffTheRebase := by
  unfold Obligations.MaskHoldsOffTheRebase
  intro s hm
  have hirq := enabled_irq_of_masked hm
  refine ⟨hirq, irqEnable_of_masked hm, fun hk => ?_, fun t h hr => ⟨fun hp => step_keeps_pend_of_masked hm hp hr h,
    fun hinit => ?_⟩⟩
  · rw [step_of_not_enabled (hk ▸ hirq), hk]
  · rcases step_clock_cases h with ⟨hk, -⟩ | ⟨-, rfl⟩ | ⟨-, -, hu, -⟩ | ⟨-, hinit', -⟩ | ⟨-, -, hsame⟩
    · exact absurd hk hr
    · rfl
    · exact absurd (hm.symm.trans hu) (by decide)
    · exact absurd hinit' hinit
    · exact hsame.base_eq

/-! ### The microsecond and the tick count -/

/-- In the nominal range a microsecond moves US by at most one. -/
theorem usecBody_us_toNat {s : State} (h : UsNominal s) :
    (usecBody s).us.toNat = s.us.toNat + (if s.run then 1 else 0) := by
  have hus : s.us.toNat < 2147483648 := h
  rw [usecBody_us]
  split
  · exact micros_add_one_toNat (by omega)
  · rfl

/-- In the nominal range a microsecond moves the tick count by at most one tick, forward (R77 item 1). -/
theorem nowValue_usecBody {s : State} (h : UsNominal s) (h' : UsNominal (usecBody s)) :
    nowValue (usecBody s) = nowValue s ∨ nowValue (usecBody s) = nowValue s + 1#32 := by
  rw [nowValue_eq_ofNat h, nowValue_eq_ofNat h', usecBody_us_toNat h, usecBody_base]
  have hticks : (s.us.toNat + if s.run then 1 else 0) / 64 = s.us.toNat / 64 ∨
      (s.us.toNat + if s.run then 1 else 0) / 64 = s.us.toNat / 64 + 1 := by
    split <;> omega
  rcases hticks with hsame | hnext
  · exact .inl (by rw [hsame])
  · exact .inr (by rw [hnext, BitVec.ofNat_add, BitVec.add_assoc])

/-- Settles O25: a microsecond by `nowValue_usecBody`, the rebase by `nowValue_takeInterrupt`; no other step touches the clock. -/
theorem tickCountNeverGoesBack : Obligations.TickCountNeverGoesBack := by
  unfold Obligations.TickCountNeverGoesBack
  intro s t h hr hinit hus hus'
  have hmove : nowValue t = nowValue s ∨ (nextKind s = .usec ∧ nowValue t = nowValue s + 1#32) := by
    rcases step_clock_cases h with ⟨hk, -⟩ | ⟨hk, rfl⟩ | ⟨-, -, -, rfl⟩ | ⟨-, hinit', -⟩ | ⟨-, -, hsame⟩
    · exact absurd hk hr
    · exact (nowValue_usecBody (s := takeTurn s) hus hus').imp_right fun hnext => ⟨hk, hnext⟩
    · exact .inl (nowValue_takeInterrupt _)
    · exact absurd hinit' hinit
    · exact .inl hsame.nowValue_eq
  refine ⟨hmove, fun hlt => ?_⟩
  rcases hmove with hsame | ⟨-, hnext⟩
  · exact (congrArg BitVec.toNat hsame).ge
  · rw [hnext, micros_add_one_toNat hlt]
    exact Nat.le_succ _

/-- Settles O27: the shifted US on either side of the jump, added to the same BASE. -/
theorem tickCountJumpsBackAtTheSignBit : Obligations.TickCountJumpsBackAtTheSignBit := by
  unfold Obligations.TickCountJumpsBackAtTheSignBit
  intro s hr
  have hnext : (usecBody s).us = s.us + 1#32 := by rw [usecBody_us, if_pos hr]
  refine ⟨fun hus => ?_, fun hus => ⟨?_, ?_, ?_⟩⟩
  · have hbefore : elapsedTicks 0x7FFFFFFF#32 = 0x01FFFFFF#32 := by decide
    have hafter : elapsedTicks (0x7FFFFFFF#32 + 1#32) = 0x01FFFFFF#32 - 67108863#32 := by decide
    rw [nowValue, nowValue, hnext, hus, hbefore, hafter, usecBody_base, add_sub_assoc]
  · have hbefore : elapsedTicks 0xFFFFFFFF#32 = -1#32 := by decide
    rw [nowValue, hus, hbefore, ← BitVec.sub_eq_add_neg]
  · rw [hnext, hus]
    decide
  · have hafter : elapsedTicks (0xFFFFFFFF#32 + 1#32) = 0#32 := by decide
    rw [nowValue, hnext, hus, hafter, usecBody_base, BitVec.add_zero]

/-! ### The account of elapsed time (R77 item 3) -/

theorem SameClock.timeAccount {e k : Nat} {s t : State} (h : SameClock s t) (ha : TimeAccount e k s) : TimeAccount e k t := by
  rw [TimeAccount, h.base_eq, h.us_eq]
  exact ha

/-- With the clock running, a microsecond of real time is a microsecond of the account. -/
theorem usecBody_timeAccount {e k : Nat} {s : State} (ha : TimeAccount e k s) (hr : s.run = true) (hus : UsNominal s) :
    TimeAccount (e + 1) k (usecBody s) := by
  obtain ⟨hnot_ahead, hdiscarded⟩ := ha
  have hnext := usecBody_us_toNat hus
  rw [if_pos hr] at hnext
  rw [TimeAccount, usecBody_base, hnext]
  omega

/-- A rebase discards at most 63 microseconds (R137). -/
theorem takeInterrupt_timeAccount {e k : Nat} {s : State} (ha : TimeAccount e k s) (hus : UsNominal s)
    (hbase : s.base.toNat + s.us.toNat / 64 < 2 ^ 32) : TimeAccount e (k + 1) (takeInterrupt s) := by
  obtain ⟨hnot_ahead, hdiscarded⟩ := ha
  have hloss := takeInterrupt_discards hus hbase
  rw [TimeAccount]
  omega

theorem exec_init_timeAccount {s t : State} (h : exec .init s = .next t) (hus : s.us = 0#32) : TimeAccount 0 0 t := by
  rw [exec_init] at h
  cases h
  simp [TimeAccount, hus]

theorem step_keeps_timeAccount {e k : Nat} {s t : State} (ha : TimeAccount e k s) (hrun : s.run = true) (hus : UsNominal s)
    (hbase : s.base.toNat + s.us.toNat / 64 < 2 ^ 32) (h : step s = .next t) (hr : nextKind s ≠ .reset)
    (hinit : nextInstr? s ≠ some .init) :
    TimeAccount (if nextKind s = .usec then e + 1 else e) (if nextKind s = .irq then k + 1 else k) t := by
  have hturn : TimeAccount e k (takeTurn s) := (takeTurn_sameClock s).timeAccount ha
  rcases step_clock_cases h with ⟨hk, -⟩ | ⟨hk, rfl⟩ | ⟨hk, -, -, rfl⟩ | ⟨-, hinit', -⟩ | ⟨hk, -, hsame⟩
  · exact absurd hk hr
  · simpa [hk] using usecBody_timeAccount hturn hrun hus
  · simpa [hk] using takeInterrupt_timeAccount hturn hus hbase
  · exact absurd hinit' hinit
  · rcases hk with hk | hk <;> simpa [hk] using hsame.timeAccount ha

/-- Settles O24: each step by `step_keeps_timeAccount`, INIT by `exec_init_timeAccount`; the bounds are the account's, with the ticks of
US read by `nowValue_toNat`. -/
theorem clockRunsSlowByUnderATickARebase : Obligations.ClockRunsSlowByUnderATickARebase := by
  unfold Obligations.ClockRunsSlowByUnderATickARebase
  refine ⟨fun e k s t => step_keeps_timeAccount, fun e k s ⟨hnot_ahead, hdiscarded⟩ hus hbase => ?_,
    fun s t => exec_init_timeAccount⟩
  rw [nowValue_toNat hus hbase]
  omega

end Sys2Proof.Machine
end

section
namespace Sys2Proof.Machine

open Safety

/-! ### The mask under balanced use (R23 item 1) -/

/-- A state in which an enter and an exit have settled IM (R73). -/
theorem maskIffDepth_of_settled {s : State} (h : s.im = decide (s.depth ≠ 0#Config.depthWidth)) : MaskIffDepth s := by
  rw [MaskIffDepth, h]
  exact decide_eq_true_iff

/-- Below its greatest value DEPTH does not count up to 0 (R132). -/
theorem depth_add_one_ne_zero {d : Depth} (h : d ≠ depthMax) : d + 1#Config.depthWidth ≠ 0#Config.depthWidth := by
  intro hwrap
  exact h (by rw [depthMax, ← BitVec.neg_one_eq_allOnes]; exact eq_neg_of_add_eq_zero_left hwrap)

/-- Balanced instructions keep IM in step with DEPTH: a time read settles it, ENTER sets it, the last EXIT clears it. -/
theorem exec_keeps_maskIffDepth {i : Instr} {s t : State} (hm : MaskIffDepth s) (hbalanced : unbalancedInstr i s = false)
    (h : exec i s = .next t) : MaskIffDepth t := by
  rcases exec_cases h with ⟨rfl, rfl⟩ | ⟨rfl, rfl⟩ | ⟨d, rfl, rfl⟩ | ⟨d, rfl, rfl⟩ | ⟨d, rfl, rfl⟩ | ⟨rfl, rfl⟩ | ⟨rfl, rfl⟩ |
    ⟨rfl, rfl⟩
  · exact hm
  · exact maskIffDepth_of_settled rfl
  · exact maskIffDepth_of_settled rfl
  · exact hm
  · exact maskIffDepth_of_settled rfl
  · have hroom : s.depth ≠ depthMax := of_decide_eq_false hbalanced
    exact iff_of_true rfl (depth_add_one_ne_zero hroom)
  · have hinside : s.depth ≠ 0#Config.depthWidth := of_decide_eq_false hbalanced
    by_cases hlast : s.depth - 1#Config.depthWidth = 0#Config.depthWidth
    · simp [MaskIffDepth, hlast]
    · simp [MaskIffDepth, hlast, hm.2 hinside]
  · exact hm

theorem step_keeps_maskIffDepth {s t : State} (hm : MaskIffDepth s) (hbalanced : unbalancedNext s = false)
    (h : step s = .next t) : MaskIffDepth t := by
  rcases step_cases h with ⟨-, rfl⟩ | ⟨-, rfl⟩ | ⟨-, -, -, rfl⟩ | ⟨hk, hs, w, ws, ho, hw⟩ | ⟨-, -, rfl⟩
  · exact maskIffDepth_of_settled rfl
  · exact hm
  · exact maskIffDepth_of_settled (by rw [takeInterrupt_eq])
  · rcases execWord_cases hw with ⟨i, hd, hi⟩ | ⟨r, -, rfl⟩
    · rw [unbalancedNext, nextInstr?_eq hk hs ho hd] at hbalanced
      exact exec_keeps_maskIffDepth (s := consumeWord (takeTurn s)) hm hbalanced hi
    · exact hm
  · exact maskIffDepth_of_settled (by rw [pollBody_im, pollBody_depth])

/-- Settles O48: `step_keeps_maskIffDepth`. -/
theorem balancedStepsKeepMaskIffDepth : Obligations.BalancedStepsKeepMaskIffDepth := by
  unfold Obligations.BalancedStepsKeepMaskIffDepth
  exact fun s t => step_keeps_maskIffDepth

/-! ### Nested sections (R64) -/

theorem nextKind_of_sched {s : State} {k : StepKind} {ks : List StepKind} (h : s.sched = k :: ks) : nextKind s = k := by
  simp [nextKind, h]

/-- The step on an instruction the requester offers in IDLE is the instruction's own, with its turn and its word taken. -/
theorem step_of_offered_encode {s : State} {i : Instr} {ks : List StepKind} {ws : List CmdWord} (hsched : s.sched = .cmd :: ks)
    (hs : s.seq = .idle) (ho : s.offered = encode i :: ws) : step s = exec i { s with sched := ks, offered := ws } := by
  rw [step_of_offered (nextKind_of_sched hsched) hs ho, execWord_of_decoded ((decode_eq_ok_iff _ i).2 rfl), hsched]
  rfl

theorem exec_sched {i : Instr} {s t : State} (h : exec i s = .next t) : t.sched = s.sched := by
  rcases exec_cases h with ⟨rfl, rfl⟩ | ⟨rfl, rfl⟩ | ⟨d, rfl, rfl⟩ | ⟨d, rfl, rfl⟩ | ⟨d, rfl, rfl⟩ | ⟨rfl, rfl⟩ | ⟨rfl, rfl⟩ |
    ⟨rfl, rfl⟩ <;> rfl

/-- The foreground is at nesting level `d`, idle, and the mask says so. -/
structure AtLevel (d : Nat) (s : State) : Prop where
  idle : s.seq = .idle
  mask : MaskIffDepth s
  depth : s.depth.toNat = d

/-- The level is the registers' own: what is scheduled or offered has no part in it. -/
theorem AtLevel.of_lists {d : Nat} {s : State} (h : AtLevel d s) (ks : List StepKind) (ws : List CmdWord) :
    AtLevel d { s with sched := ks, offered := ws } := ⟨h.idle, h.mask, h.depth⟩

/-- ENTER goes a level in, short of the greatest DEPTH. -/
theorem AtLevel.exec_enter {d : Nat} {s t : State} (hs : AtLevel d s) (hroom : d < 2 ^ Config.depthWidth - 1)
    (h : exec .enter s = .next t) : AtLevel (d + 1) t := by
  have hdepth := hs.depth
  have hmax : depthMax.toNat = 2 ^ Config.depthWidth - 1 := by decide
  have hbalanced : s.depth ≠ depthMax := fun hfull => by rw [hfull] at hdepth; omega
  refine ⟨(exec_seq h).trans hs.idle, exec_keeps_maskIffDepth (i := .enter) hs.mask (decide_eq_false hbalanced) h, ?_⟩
  rw [Machine.exec_enter] at h
  rw [← Host.Outcome.next.inj h]
  simp only [BitVec.toNat_add, BitVec.toNat_ofNat, Config.two_pow_depthWidth] at hroom ⊢
  omega

/-- EXIT goes a level out. -/
theorem AtLevel.exec_exit {d : Nat} {s t : State} (hs : AtLevel (d + 1) s) (h : exec .exit s = .next t) : AtLevel d t := by
  have hdepth := hs.depth
  have hlt := Config.depth_lt s.depth
  have hbalanced : s.depth ≠ 0#Config.depthWidth := fun hzero => by
    rw [hzero] at hdepth
    exact absurd hdepth (Nat.succ_ne_zero d).symm
  refine ⟨(exec_seq h).trans hs.idle, exec_keeps_maskIffDepth (i := .exit) hs.mask (decide_eq_false hbalanced) h, ?_⟩
  rw [Machine.exec_exit] at h
  rw [← Host.Outcome.next.inj h]
  simp only [BitVec.toNat_sub, BitVec.toNat_ofNat, Config.two_pow_depthWidth]
  omega

/-- A run of n offered copies of one instruction, `level k` being the nesting level with k of them to go. -/
theorem run_offered_copies {i : Instr} {level : Nat → Nat} {rest : List StepKind} {more : List CmdWord} (n : Nat)
    (hexec : ∀ k < n, ∀ s t, AtLevel (level (k + 1)) s → exec i s = .next t → AtLevel (level k) t) :
    ∀ s, AtLevel (level n) s → s.sched = List.replicate n .cmd ++ rest → s.offered = List.replicate n (encode i) ++ more →
      ∃ t, Sys2Proof.core.run n s = .next t ∧ AtLevel (level 0) t ∧ t.sched = rest ∧ t.offered = more := by
  induction n with
  | zero => exact fun s hs hsched ho => ⟨s, rfl, hs, hsched, ho⟩
  | succ n ih =>
    intro s hs hsched ho
    obtain ⟨t, ht⟩ := exec_answers i { s with
      sched := List.replicate n .cmd ++ rest, offered := List.replicate n (encode i) ++ more }
    have hstep : step s = .next t := (step_of_offered_encode hsched hs.idle ho).trans ht
    have hlevel := hexec n (Nat.lt_succ_self n) _ t (hs.of_lists _ _) ht
    obtain ⟨u, hrun, hu⟩ := ih (fun k hk => hexec k (hk.trans (Nat.lt_succ_self n))) t hlevel (exec_sched ht) (exec_offered ht)
    exact ⟨u, (run_succ_of_next n hstep).trans hrun, hu⟩

/-- Settles O16: N levels in by `AtLevel.exec_enter`, k levels out by `AtLevel.exec_exit`; at level N - k the mask is set iff that is
not 0. -/
theorem nestedSectionsUnmaskOnlyAtTheLastExit : Obligations.NestedSectionsUnmaskOnlyAtTheLastExit := by
  unfold Obligations.NestedSectionsUnmaskOnlyAtTheLastExit
  intro N k s rest more _ hroom hk hdepth him hs hsched ho
  rw [← List.replicate_append_replicate, List.append_assoc] at hsched
  have hstart : AtLevel (N - N) s :=
    ⟨hs, by simp [MaskIffDepth, him, hdepth], by rw [hdepth, Nat.sub_self]; rfl⟩
  obtain ⟨inside, hin, hinside, hsched', ho'⟩ := run_offered_copies (level := fun j => N - j) N
    (fun j hj u v hu h => by
      have hlevel := hu.exec_enter (by omega) h
      rwa [(by omega : N - (j + 1) + 1 = N - j)] at hlevel) s hstart hsched ho
  have hinside' : AtLevel (N - k + k) inside := by rwa [Nat.sub_add_cancel hk]
  obtain ⟨t, hout, ht, -, -⟩ := run_offered_copies (level := fun j => N - k + j) k
    (fun j _ u v hu h => hu.exec_exit h) inside hinside' hsched' ho'
  refine ⟨t, (run_add N k hin).trans hout, ht.depth, ht.mask.trans ?_⟩
  have hlevel : t.depth.toNat = N - k := ht.depth
  rw [ne_eq, ← BitVec.toNat_inj, hlevel, BitVec.toNat_ofNat, Nat.zero_mod]
  omega

end Sys2Proof.Machine
end

section
namespace Sys2Proof.Machine

open Safety

/-! ### The conservative machine -/

theorem guardedStep_of_stop {s : State} {a : Answer} (h : contractStop s = some a) : guardedStep s = a := by
  simp only [guardedStep, h]

theorem guardedStep_of_no_stop {s : State} (h : contractStop s = none) : guardedStep s = step s := by
  simp only [guardedStep, h]

/-- `step` answers a next state or that no such step is enabled; every other answer is a stop (R100). -/
theorem guardedStep_eq_stop_iff {s : State} {a : Answer} (hnext : ∀ t, a ≠ .next t)
    (henabled : ∀ k, a ≠ .refused (.stepNotEnabled k)) : guardedStep s = a ↔ contractStop s = some a := by
  refine ⟨fun h => ?_, guardedStep_of_stop⟩
  cases hstop : contractStop s with
  | some b => exact congrArg some ((guardedStep_of_stop hstop).symm.trans h)
  | none =>
    rw [guardedStep_of_no_stop hstop] at h
    cases he : enabled (nextKind s) s with
    | true =>
      obtain ⟨t, ht⟩ := (step_answers_iff s).2 he
      exact absurd (h.symm.trans ht) (hnext t)
    | false => exact absurd (h.symm.trans (step_of_not_enabled he)) (henabled _)

theorem nextKind_of_nextWord? {s : State} {w : CmdWord} (h : nextWord? s = some w) : nextKind s = .cmd := by
  unfold nextWord? at h
  split at h
  · next hcmd => exact hcmd.1
  · cases h

theorem nextInstr?_eq_some_iff (s : State) (i : Instr) :
    nextInstr? s = some i ↔ ∃ w, nextWord? s = some w ∧ decode w = .ok i := by
  unfold nextInstr?
  cases nextWord? s with
  | none => simp
  | some w => cases hd : decode w <;> simp [hd, Except.toOption]

theorem usecStop_eq_some_iff (s : State) (a : Answer) :
    usecStop s = some a ↔ (s.run = true ∧ 2 ^ 31 ≤ s.us.toNat + 1) ∧ .fault .usLeavesNominalRange = a := by
  rw [usecStop, Option.ite_none_right_eq_some, Option.some.injEq]

/-- The instructions the conservative machine stops at, each with its hazard: U3, U4, U5, U1. -/
theorem instrStop_eq_some_iff (i : Instr) (s : State) (a : Answer) : instrStop i s = some a ↔
    (i = .init ∧ s.run = true ∧ .refused .secondInit = a) ∨
    ((i = .now ∨ ∃ d, i = .delta d ∨ i = .wait d ∨ i = .check d) ∧ s.run = false ∧ .refused .timeBeforeInit = a) ∨
    (i = .enter ∧ s.depth = depthMax ∧ .fault .enterAtDepthMax = a) ∨
    (i = .exit ∧ s.depth = 0#Config.depthWidth ∧ .fault .exitAtDepthZero = a) := by
  cases i <;> simp [instrStop]

theorem wordStop_eq_some_iff (w : CmdWord) (s : State) (a : Answer) : wordStop w s = some a ↔
    ((∃ r, decode w = .error r) ∧ .refused .reservedWord = a) ∨ (∃ i, decode w = .ok i ∧ instrStop i s = some a) := by
  unfold wordStop
  cases decode w <;> simp

/-- What the conservative machine stops at: a microsecond, a reserved word, or an instruction. -/
theorem contractStop_eq_some_iff (s : State) (a : Answer) : contractStop s = some a ↔
    (nextKind s = .usec ∧ usecStop s = some a) ∨
    ((∃ w r, nextWord? s = some w ∧ decode w = .error r) ∧ .refused .reservedWord = a) ∨
    (∃ i, nextInstr? s = some i ∧ instrStop i s = some a) := by
  simp only [nextInstr?_eq_some_iff]
  unfold contractStop
  cases hw : nextWord? s with
  | some w => simp [nextKind_of_nextWord? hw, wordStop_eq_some_iff]
  | none => cases nextKind s <;> simp

/-- The conservative machine goes on only by a step of the machine that runs into no hazard. -/
theorem guardedStep_eq_next {s t : State} (h : guardedStep s = .next t) : contractStop s = none ∧ step s = .next t := by
  have hgoes_on : contractStop s = none := by
    cases hstop : contractStop s with
    | none => rfl
    | some a =>
      obtain rfl : a = .next t := (guardedStep_of_stop hstop).symm.trans h
      simp [contractStop_eq_some_iff, usecStop_eq_some_iff, instrStop_eq_some_iff] at hstop
  exact ⟨hgoes_on, (guardedStep_of_no_stop hgoes_on).symm.trans h⟩

/-- Settles O49: a stop of the guarded step is a `contractStop` by `guardedStep_eq_stop_iff`, and `contractStop_eq_some_iff` with
`usecStop_eq_some_iff` and `instrStop_eq_some_iff` lists what leads to each. -/
theorem guardedStepIsStepShortOfTheHazards : Obligations.GuardedStepIsStepShortOfTheHazards := by
  unfold Obligations.GuardedStepIsStepShortOfTheHazards
  refine ⟨fun s t h => (guardedStep_eq_next h).2, fun s => guardedStep_of_no_stop, fun s => ?_, fun s => ?_, fun s => ?_,
    fun s => ?_, fun s => ?_, fun s => ?_⟩ <;>
    rw [guardedStep_eq_stop_iff (by simp) (by simp), contractStop_eq_some_iff]
  · simp [usecStop_eq_some_iff, instrStop_eq_some_iff]
  · simp [usecStop_eq_some_iff, instrStop_eq_some_iff]
  · simp [usecStop_eq_some_iff, instrStop_eq_some_iff]
  · simp [usecStop_eq_some_iff, instrStop_eq_some_iff]
  · cases nextInstr? s <;> simp [usecStop_eq_some_iff, instrStop_eq_some_iff, and_comm]
  · simp [usecStop_eq_some_iff, instrStop_eq_some_iff]

/-! ### The invariants along guarded runs -/

/-- U1 and U5 are the exclusions of balanced use. -/
theorem instrStop_of_unbalanced {i : Instr} {s : State} (h : unbalancedInstr i s = true) : ∃ a, instrStop i s = some a := by
  cases i with
  | enter => exact ⟨_, if_pos (of_decide_eq_true h)⟩
  | exit => exact ⟨_, if_pos (of_decide_eq_true h)⟩
  | init | now | delta | wait | check | fail => cases h

theorem unbalancedNext_of_no_stop {s : State} (h : contractStop s = none) : unbalancedNext s = false := by
  unfold unbalancedNext
  cases hi : nextInstr? s with
  | none => rfl
  | some i =>
    refine Bool.eq_false_iff.2 fun hunbalanced => ?_
    obtain ⟨a, ha⟩ := instrStop_of_unbalanced hunbalanced
    have hstop := (contractStop_eq_some_iff s a).2 (.inr (.inr ⟨i, hi, ha⟩))
    rw [h] at hstop
    cases hstop

theorem usNominal_of_us_zero {s : State} (h : s.us = 0#32) : UsNominal s := by
  rw [UsNominal, h]
  decide

theorem usNominal_of_us_eq {s t : State} (h : t.us = s.us) (hus : UsNominal s) : UsNominal t := by
  rw [UsNominal, h]
  exact hus

/-- U2 stops the microsecond that would take US to its sign bit. -/
theorem usNominal_of_no_stop {s t : State} (hus : UsNominal s) (h : contractStop s = none) (hstep : step s = .next t) :
    UsNominal t := by
  rcases step_clock_cases hstep with ⟨-, rfl⟩ | ⟨hk, rfl⟩ | ⟨-, -, -, rfl⟩ | ⟨-, -, hinit⟩ | ⟨-, -, hsame⟩
  · exact usNominal_of_us_zero (resetBody_us _)
  · have hroom : ¬ (s.run = true ∧ 2 ^ 31 ≤ s.us.toNat + 1) := fun hstop => by
      have hsome := (contractStop_eq_some_iff s _).2 (.inl ⟨hk, (usecStop_eq_some_iff s _).2 ⟨hstop, rfl⟩⟩)
      rw [h] at hsome
      cases hsome
    have hnext : (usecBody (takeTurn s)).us.toNat = s.us.toNat + if s.run then 1 else 0 := usecBody_us_toNat hus
    have hus' : s.us.toNat < 2 ^ 31 := hus
    rw [UsNominal, hnext]
    split
    · next hr => exact not_le.1 fun hle => hroom ⟨hr, hle⟩
    · exact hus'
  · exact usNominal_of_us_zero (takeInterrupt_us _)
  · exact usNominal_of_us_eq (exec_us hinit) hus
  · exact usNominal_of_us_eq hsame.us_eq hus

/-- Settles O50: `run_invariant` with what each guarded step keeps. -/
theorem guardedRunsStayWithinTheInvariants : Obligations.GuardedRunsStayWithinTheInvariants := by
  unfold Obligations.GuardedRunsStayWithinTheInvariants
  refine run_invariant guardedCore (fun s => TimerInv s ∧ MaskIffDepth s ∧ UsNominal s) fun s t ⟨htimer, hmask, hus⟩ h => ?_
  obtain ⟨hgoes_on, hstep⟩ := guardedStep_eq_next h
  exact ⟨step_keeps_timerInv htimer hstep, step_keeps_maskIffDepth hmask (unbalancedNext_of_no_stop hgoes_on) hstep,
    usNominal_of_no_stop hus hgoes_on hstep⟩

/-! ### Interrupt latency (decision D18) -/

theorem SameClock.usWithinLatency {l : Nat} {s t : State} (h : SameClock s t) (hl : UsWithinLatency l s) :
    UsWithinLatency l t := by
  rw [UsWithinLatency, h.us_eq, h.icnt_eq, h.pend_eq]
  exact hl

theorem usWithinLatency_of_us_zero {l : Nat} {s : State} (hus : s.us = 0#32) (hpend : s.pend = false) : UsWithinLatency l s := by
  simp [UsWithinLatency, hus, hpend]

/-- What the latency invariant bounds US by: a period, and the latency besides while a request is pending. -/
theorem us_le_of_usWithinLatency {l : Nat} {s : State} (hi : TimerInv s) (hl : UsWithinLatency l s) :
    s.us.toNat ≤ Config.rebasePeriodUs + l := by
  obtain ⟨hus, hpending⟩ := hl
  have hicnt := hi.icnt_lt
  cases hp : s.pend with
  | false =>
    rw [hp, if_neg Bool.false_ne_true] at hus
    omega
  | true =>
    rw [hp, if_pos rfl] at hus
    have hage := hpending hp
    omega

theorem icnt_add_one_toNat {s : State} (h : s.icnt.toNat < Config.rebasePeriodUs) :
    (s.icnt + 1#32).toNat = s.icnt.toNat + 1 :=
  micros_add_one_toNat (h.trans (by decide))

/-- The microsecond that completes the period raises the request and restarts the interval (R103). -/
theorem usecBody_of_period_complete {s : State} (harmed : s.armed = true) (h : s.icnt.toNat + 1 = Config.rebasePeriodUs) :
    (usecBody s).icnt = 0#32 ∧ (usecBody s).pend = true := by
  have helapses : s.icnt + 1#32 = rebasePeriod := by
    rw [← BitVec.toNat_inj, icnt_add_one_toNat (by omega), Config.rebasePeriod_toNat, h]
  simp [usecBody_eq, harmed, helapses]

/-- Every other microsecond of the interval is counted and raises nothing (R103). -/
theorem usecBody_of_period_open {s : State} (harmed : s.armed = true) (h : s.icnt.toNat + 1 < Config.rebasePeriodUs) :
    (usecBody s).icnt.toNat = s.icnt.toNat + 1 ∧ (usecBody s).pend = s.pend := by
  have hnext := icnt_add_one_toNat (s := s) (by omega)
  have hgoes_on : s.icnt + 1#32 ≠ rebasePeriod := fun helapses => by
    rw [helapses, Config.rebasePeriod_toNat] at hnext
    omega
  simp [usecBody_eq, harmed, hgoes_on, hnext]

theorem usecBody_sameClock_of_stopped {s : State} (hrun : s.run = false) (harmed : s.armed = false) :
    SameClock s (usecBody s) := by
  constructor <;> simp [usecBody_eq, hrun, harmed]

/-- A microsecond ages a pending request by one, which the premise allows; where the interval ends, none was pending. -/
theorem usecBody_usWithinLatency {l : Nat} {s : State} (hperiod : l < Config.rebasePeriodUs) (hi : TimerInv s)
    (hl : UsWithinLatency l s) (hage : s.pend = true → s.icnt.toNat < l) : UsWithinLatency l (usecBody s) := by
  have hicnt := hi.icnt_lt
  have hbound := us_le_of_usWithinLatency hi hl
  have hrange : Config.rebasePeriodUs + Config.rebasePeriodUs < 2 ^ 31 := by decide
  cases harmed : s.armed with
  | false => exact (usecBody_sameClock_of_stopped (hi.armed_eq_run.symm.trans harmed) harmed).usWithinLatency hl
  | true =>
    have hus : (usecBody s).us.toNat = s.us.toNat + 1 := by
      rw [usecBody_us_toNat (by rw [UsNominal]; omega), if_pos (hi.armed_eq_run.symm.trans harmed)]
    obtain ⟨hle, -⟩ := hl
    rcases Nat.lt_or_eq_of_le (Nat.succ_le_of_lt hicnt) with hopen | hcomplete
    · obtain ⟨hicnt', hpend'⟩ := usecBody_of_period_open harmed hopen
      rw [UsWithinLatency, hus, hicnt', hpend']
      exact ⟨by omega, hage⟩
    · obtain ⟨hicnt', hpend'⟩ := usecBody_of_period_complete harmed hcomplete
      have hnone : s.pend = false := Bool.eq_false_iff.2 fun hp => by
        have hyoung := hage hp
        omega
      rw [hnone, if_neg Bool.false_ne_true] at hle
      rw [UsWithinLatency, hus, hicnt', hpend', if_pos rfl, BitVec.toNat_ofNat, Nat.zero_mod]
      exact ⟨by omega, fun _ => Nat.zero_le l⟩

/-- Settles O51: the invariant kept case by case, a microsecond's by `usecBody_usWithinLatency`; the bound from
`us_le_of_usWithinLatency`. -/
theorem latencyBoundKeepsTheCounterNominal : Obligations.LatencyBoundKeepsTheCounterNominal := by
  unfold Obligations.LatencyBoundKeepsTheCounterNominal
  intro l s t hperiod hi hl hage hinit h
  have hlatency : UsWithinLatency l t := by
    rcases step_clock_cases h with ⟨-, rfl⟩ | ⟨hk, rfl⟩ | ⟨-, -, -, rfl⟩ | ⟨-, hi', hexec⟩ | ⟨-, -, hsame⟩
    · exact usWithinLatency_of_us_zero (resetBody_us _) (resetBody_pend _)
    · exact usecBody_usWithinLatency hperiod ((takeTurn_sameClock s).timerInv hi)
        ((takeTurn_sameClock s).usWithinLatency hl) (hage hk)
    · exact usWithinLatency_of_us_zero (takeInterrupt_us _) (takeInterrupt_pend _)
    · have hstopped : s.run = false := Bool.eq_false_iff.2 fun hr => hinit ⟨hi', hr⟩
      exact usWithinLatency_of_us_zero ((exec_us hexec).trans (hi.stopped_at_zero hstopped).2)
        ((exec_pend hexec).trans (pend_of_stopped (s := s) hi hstopped))
    · exact hsame.usWithinLatency hl
  have hbound := us_le_of_usWithinLatency (step_keeps_timerInv hi h) hlatency
  refine ⟨hlatency, hbound, ?_⟩
  have hrange : Config.rebasePeriodUs + Config.rebasePeriodUs < 2 ^ 31 := by decide
  rw [UsNominal]
  omega

end Sys2Proof.Machine
end

section
namespace Sys2Proof.Machine

open Safety

/-! ### Deadline commands -/

theorem zext32_toNat (r : Delta) : (zext32 r).toNat = r.toNat :=
  BitVec.toNat_setWidth_of_le (by decide)

/-- Settles O29: `exec_delta`; the response is the clamped distance by `saturateDistance_toNat`. -/
theorem deltaRespondsTheSaturatedDistance : Obligations.DeltaRespondsTheSaturatedDistance := by
  unfold Obligations.DeltaRespondsTheSaturatedDistance
  refine fun target s => ⟨(decode_eq_ok_iff _ (.delta target)).2 rfl, _, exec_delta target s, ?_⟩
  rw [zext32_toNat]
  exact saturateDistance_toNat _

/-- CHECK's test of the clamped distance is a test of the distance: at most one tick ahead (R85). -/
theorem withinCheckThreshold_saturateDistance_iff (d : Tick) :
    withinCheckThreshold (saturateDistance d) = true ↔ d.toInt ≤ 1 := by
  have hclamp := saturateDistance_toNat d
  rw [withinCheckThreshold_iff]
  omega

theorem exec_check_eq (target : Tick) (s : State) :
    exec (.check target) s =
      .next { s with
        im := decide (s.depth ≠ 0#Config.depthWidth)
        rsp := some (if (target - nowValue s).toInt ≤ 1 then 1#32 else 0#32) } := by
  simp only [exec_check, withinCheckThreshold_saturateDistance_iff]

/-- Settles O30: `exec_check_eq`. -/
theorem checkRespondsWhetherDueWithinATick : Obligations.CheckRespondsWhetherDueWithinATick := by
  unfold Obligations.CheckRespondsWhetherDueWithinATick
  exact fun target s => ⟨(decode_eq_ok_iff _ (.check target)).2 rfl, exec_check_eq target s⟩

/-- WAIT, said forwards (R82). -/
theorem exec_wait (target : Tick) (s : State) :
    exec (.wait target) s = .next { s with target := target, seq := .wait, rsp := none } := by rfl

/-- Settles O31: `exec_wait`. -/
theorem waitLatchesTheDeadline : Obligations.WaitLatchesTheDeadline := by
  unfold Obligations.WaitLatchesTheDeadline
  exact fun target s => ⟨(decode_eq_ok_iff _ (.wait target)).2 rfl, exec_wait target s⟩

theorem step_of_poll {s : State} (hk : nextKind s = .poll) (hs : s.seq = .wait) :
    step s = .next (pollBody (takeTurn s)) :=
  step_of_enabled hk ((enabled_poll_iff s).2 hs)

/-- Settles O32: the enabled `Poll` is `pollBody`, due or ahead. -/
theorem pollCompletesExactlyWhenDue : Obligations.PollCompletesExactlyWhenDue := by
  unfold Obligations.PollCompletesExactlyWhenDue
  refine fun s hk hs => ⟨fun hdue => ?_, fun hahead => ?_⟩
  · rw [step_of_poll hk hs, pollBody_of_due (s := takeTurn s) hdue]
    rfl
  · rw [step_of_poll hk hs, pollBody_of_ahead (s := takeTurn s) hahead]
    rfl

/-! ### The half-range rule (R87) -/

theorem toInt_of_lt_half {d : Tick} (h : d.toNat < 2 ^ 31) : d.toInt = d.toNat := by
  rw [tick_toInt, if_pos (by omega)]

theorem toInt_of_half_le {d : Tick} (h : 2 ^ 31 ≤ d.toNat) : d.toInt = d.toNat - 4294967296 := by
  rw [tick_toInt, if_neg (by omega)]

/-- A distance of the half cycle or more is negative, so the deadline reads as due. -/
theorem toInt_nonpos_of_half_le {d : Tick} (h : 2 ^ 31 ≤ d.toNat) : d.toInt ≤ 0 := by
  have hlt := Config.tick_lt d
  rw [toInt_of_half_le h]
  omega

/-- A deadline given as a distance from now lies that distance ahead, even where the sum wraps. -/
theorem nowValue_add_sub (s : State) (k : Tick) : nowValue s + k - nowValue s = k := add_sub_cancel_left _ _

/-- Settles O34: the distance is k itself; under half the cycle it reads as a number, from there on as due. -/
theorem deadlinesUnderHalfTheCycleReadAsFuture : Obligations.DeadlinesUnderHalfTheCycleReadAsFuture := by
  unfold Obligations.DeadlinesUnderHalfTheCycleReadAsFuture
  intro s k
  have hclamp := saturateDistance_toNat k
  have hlt := Config.tick_lt k
  refine ⟨_, _, exec_delta _ s, exec_check_eq _ s, fun hfuture => ?_, fun hdue => ?_, ?_⟩ <;>
    simp only [nowValue_add_sub, Option.some.injEq]
  · rw [toInt_of_lt_half hfuture] at hclamp
    apply BitVec.eq_of_toNat_eq
    rw [zext32_toNat, BitVec.toNat_ofNat, Nat.mod_eq_of_lt ((min_le_right _ _).trans_lt (by decide))]
    omega
  · rw [(saturateDistance_eq_zero_iff k).2 (toInt_nonpos_of_half_le hdue)]
    rfl
  · congr 1
    rw [eq_iff_iff]
    rcases Nat.lt_or_ge k.toNat (2 ^ 31) with hfuture | hdue
    · rw [toInt_of_lt_half hfuture]
      omega
    · have hpast := toInt_nonpos_of_half_le hdue
      omega

/-! ### Time passing moves a deadline nearer (R143) -/

/-- A difference that fits in 32 signed bits is read as it is. -/
theorem toInt_sub_of_fits {d e : Tick} (hlow : -2147483648 ≤ d.toInt - e.toInt) (hhigh : d.toInt - e.toInt < 2147483648) :
    (d - e).toInt = d.toInt - e.toInt := by
  rw [BitVec.toInt_sub]
  exact Int.bmod_eq_of_le hlow hhigh

theorem toInt_sub_one {d : Tick} (h : d ≠ 0x80000000#32) : (d - 1#32).toInt = d.toInt - 1 := by
  have hlt := Config.tick_lt d
  have hcond := tick_toInt d
  have hone : (1#32 : Tick).toInt = 1 := by decide
  have hne : d.toNat ≠ 2147483648 := fun c => h (BitVec.eq_of_toNat_eq c)
  rw [toInt_sub_of_fits] <;> rw [hone] <;> split at hcond <;> omega

/-- A nearer deadline has no greater DELTA result. -/
theorem saturateDistance_mono {d e : Tick} (h : d.toInt ≤ e.toInt) :
    (saturateDistance d).toNat ≤ (saturateDistance e).toNat := by
  have hd := saturateDistance_toNat d
  have he := saturateDistance_toNat e
  omega

/-- Settles O36: a microsecond moves the tick count by at most one tick, so the distance does not grow, short of the turnover at the half
cycle; the DELTA result follows by `saturateDistance_mono`, and CHECK with it. -/
theorem dueStaysDueAsTimePasses : Obligations.DueStaysDueAsTimePasses := by
  unfold Obligations.DueStaysDueAsTimePasses
  intro target s hus hus' hturn
  have hnearer : (target - nowValue (usecBody s)).toInt ≤ (target - nowValue s).toInt := by
    rcases nowValue_usecBody hus hus' with hsame | hnext
    · rw [hsame]
    · rw [hnext, ← sub_sub, toInt_sub_one hturn]
      omega
  have hresult : (deltaBody target (usecBody s)).1.toNat ≤ (deltaBody target s).1.toNat := by
    rw [deltaBody_eq, deltaBody_eq]
    exact saturateDistance_mono hnearer
  exact ⟨hresult, hresult.trans_lt⟩

/-! ### Targets outside the band of the tick count (R134) -/

theorem nowValue_sub_base (s : State) : nowValue s - s.base = elapsedTicks s.us := add_sub_cancel_left _ _

/-- Whatever US holds, the shift gives a number of 26 bits, read with its sign (R71, R130). -/
theorem elapsedTicks_in_band (us : Micros) : -(2 ^ 25) ≤ (elapsedTicks us).toInt ∧ (elapsedTicks us).toInt < 2 ^ 25 := by
  have hlt := Config.micros_lt us
  rw [elapsedTicks_toInt, tick_toInt]
  split <;> omega

/-- The distance to the target, from the one that BASE gives. -/
theorem target_sub_nowValue (s : State) : s.target - nowValue s = s.target - s.base - elapsedTicks s.us := by
  rw [nowValue, sub_sub]

/-- From beyond US's reach to half the cycle less the reach, a target stays ahead whatever US holds. -/
theorem ahead_of_beyond_reach {s : State} (h : 2 ^ 25 ≤ (s.target - s.base).toNat)
    (h' : (s.target - s.base).toNat < 2 ^ 31 - 2 ^ 25) : 0 < (s.target - nowValue s).toInt := by
  obtain ⟨hlow, hhigh⟩ := elapsedTicks_in_band s.us
  rw [target_sub_nowValue]
  rw [toInt_sub_of_fits] <;> rw [toInt_of_lt_half (by omega)] <;> omega

/-- A target outside the band is no time the counter reaches with this BASE. -/
theorem nowValue_ne_target_of_outside_band {s : State} (h : 2 ^ 25 ≤ (s.target - s.base).toNat)
    (h' : (s.target - s.base).toNat < 2 ^ 32 - 2 ^ 25) : nowValue s ≠ s.target := by
  intro hreached
  obtain ⟨hlow, hhigh⟩ := elapsedTicks_in_band s.us
  rw [← nowValue_sub_base, hreached, tick_toInt] at hlow hhigh
  split at hlow <;> omega

/-- At the sign bit the tick count stands 2^25 behind BASE, so a target that far from half the cycle ahead reads as past. -/
theorem due_at_sign_bit {s : State} (h : 2 ^ 31 - 2 ^ 25 ≤ (s.target - s.base).toNat)
    (h' : (s.target - s.base).toNat < 2 ^ 32 - 2 ^ 25) (hus : s.us = 0x80000000#32) : (s.target - nowValue s).toInt ≤ 0 := by
  have hticks : elapsedTicks 0x80000000#32 = 0xFE000000#32 := by decide
  rw [target_sub_nowValue, hus, hticks]
  apply toInt_nonpos_of_half_le
  simp only [BitVec.toNat_sub, BitVec.toNat_ofNat, Config.two_pow_tickWidth] at h h' ⊢
  omega

/-- Settles O35: the band by `elapsedTicks_in_band`; each later clause by the lemma on its range of targets. -/
theorem unreachedTargetsReadByTheHalfRange : Obligations.UnreachedTargetsReadByTheHalfRange := by
  unfold Obligations.UnreachedTargetsReadByTheHalfRange
  refine fun s => ⟨?_, nowValue_ne_target_of_outside_band, fun h h' => ?_, fun h h' hus => ?_⟩
  · rw [nowValue_sub_base]
    exact elapsedTicks_in_band s.us
  · rw [pollBody_of_ahead (ahead_of_beyond_reach h h')]
    exact ⟨rfl, rfl⟩
  · rw [pollBody_of_due (due_at_sign_bit h h' hus)]
    exact ⟨rfl, rfl⟩

end Sys2Proof.Machine
end

section
namespace Sys2Proof.Machine

open Safety

/-! ### Microseconds in a row -/

/-- The state after n `Usec` steps in a row. -/
def afterMicros : Nat → State → State
  | 0, s => s
  | n + 1, s => usecBody (takeTurn (afterMicros n s))

/-- A run goes one step further. -/
theorem run_then_step {n : Nat} {s t u : State} (hrun : Sys2Proof.core.run n s = .next t) (hstep : step t = .next u) :
    Sys2Proof.core.run (n + 1) s = .next u :=
  (run_add n 1 hrun).trans (run_succ_of_next 0 hstep)

/-- A schedule of n `Usec` entries runs n microseconds and leaves the rest of the schedule. -/
theorem run_micros (n : Nat) {s : State} {rest : List StepKind} (hsched : s.sched = List.replicate n .usec ++ rest) :
    Sys2Proof.core.run n s = .next (afterMicros n s) ∧ (afterMicros n s).sched = rest := by
  induction n generalizing rest with
  | zero => exact ⟨rfl, hsched⟩
  | succ n ih =>
    rw [List.replicate_succ', List.append_assoc] at hsched
    obtain ⟨hrun, hrest⟩ := ih hsched
    exact ⟨run_then_step hrun (step_of_usec (nextKind_of_sched hrest)), congrArg List.tail hrest⟩

/-- The registers that time does not write. -/
theorem afterMicros_frame (n : Nat) (s : State) : (afterMicros n s).base = s.base ∧ (afterMicros n s).run = s.run ∧
    (afterMicros n s).im = s.im ∧ (afterMicros n s).armed = s.armed ∧ (afterMicros n s).target = s.target ∧
    (afterMicros n s).seq = s.seq := by
  induction n with
  | zero => exact ⟨rfl, rfl, rfl, rfl, rfl, rfl⟩
  | succ n ih => exact ih

/-- With the clock running and US staying nominal, US counts every microsecond (R102). -/
theorem afterMicros_us {n : Nat} {s : State} (hr : s.run = true) (hroom : s.us.toNat + n < 2 ^ 31) :
    (afterMicros n s).us.toNat = s.us.toNat + n := by
  induction n with
  | zero => rfl
  | succ n ih =>
    have hus := ih (by omega)
    obtain ⟨-, hrun, -⟩ := afterMicros_frame n s
    have hnominal : UsNominal (takeTurn (afterMicros n s)) := by
      rw [UsNominal, takeTurn_us]
      omega
    rw [afterMicros, usecBody_us_toNat hnominal, takeTurn_us, takeTurn_run, hus, if_pos (hrun.trans hr)]
    rfl

/-- A tick for every 64 microseconds (R72). -/
theorem nowValue_afterMicros {n : Nat} {s : State} (hr : s.run = true) (hroom : s.us.toNat + n < 2 ^ 31) :
    nowValue (afterMicros n s) = s.base + BitVec.ofNat 32 ((s.us.toNat + n) / 64) := by
  obtain ⟨hbase, -⟩ := afterMicros_frame n s
  have hus := afterMicros_us hr hroom
  rw [nowValue_eq_ofNat (by rw [UsNominal, hus]; exact hroom), hus, hbase]

/-- Settles O26: `run_micros`, `afterMicros_us` and `nowValue_afterMicros`. -/
theorem clockCountsSixtyFourMicrosecondsATick : Obligations.ClockCountsSixtyFourMicrosecondsATick := by
  unfold Obligations.ClockCountsSixtyFourMicrosecondsATick
  intro n s rest hr hroom hsched
  obtain ⟨hrun, hrest⟩ := run_micros n hsched
  exact ⟨_, hrun, hrest, afterMicros_us hr hroom, nowValue_afterMicros hr hroom⟩

/-! ### The periodic interrupt over time (R103, R116) -/

/-- Short of the period, ICNT counts and nothing is raised. -/
theorem afterMicros_of_period_open {n : Nat} {s : State} (harmed : s.armed = true)
    (hopen : s.icnt.toNat + n < Config.rebasePeriodUs) :
    (afterMicros n s).icnt.toNat = s.icnt.toNat + n ∧ (afterMicros n s).pend = s.pend := by
  induction n with
  | zero => exact ⟨rfl, rfl⟩
  | succ n ih =>
    obtain ⟨hicnt, hpend⟩ := ih (by omega)
    obtain ⟨-, -, -, harmed', -⟩ := afterMicros_frame n s
    obtain ⟨hicnt', hpend'⟩ := usecBody_of_period_open (s := takeTurn (afterMicros n s)) (harmed'.trans harmed)
      (by rw [takeTurn_icnt]; omega)
    exact ⟨hicnt'.trans (congrArg (· + 1) hicnt), hpend'.trans hpend⟩

/-- The microsecond that completes the period raises the request. -/
theorem afterMicros_of_period_complete {n : Nat} {s : State} (harmed : s.armed = true)
    (hrange : s.icnt.toNat < Config.rebasePeriodUs) (hcomplete : s.icnt.toNat + n = Config.rebasePeriodUs) :
    (afterMicros n s).icnt = 0#32 ∧ (afterMicros n s).pend = true := by
  cases n with
  | zero => exact absurd hcomplete hrange.ne
  | succ n =>
    obtain ⟨hicnt, -⟩ := afterMicros_of_period_open (n := n) harmed (by omega)
    obtain ⟨-, -, -, harmed', -⟩ := afterMicros_frame n s
    exact usecBody_of_period_complete (s := takeTurn (afterMicros n s)) (harmed'.trans harmed)
      (by rw [takeTurn_icnt, hicnt]; exact hcomplete)

/-- Settles O41: `run_micros`, and the two lemmas on the open and the completed period. -/
theorem interruptIsRaisedOnceAPeriod : Obligations.InterruptIsRaisedOnceAPeriod := by
  unfold Obligations.InterruptIsRaisedOnceAPeriod
  intro n s rest harmed hle hrange hsched
  obtain ⟨hrun, -⟩ := run_micros n hsched
  refine ⟨_, hrun, ?_⟩
  split
  · next hcomplete => exact afterMicros_of_period_complete harmed hrange hcomplete
  · next hopen => exact afterMicros_of_period_open harmed (Nat.lt_of_le_of_ne hle hopen)

theorem afterMicros_pend_of_pend {s : State} (n : Nat) (hp : s.pend = true) : (afterMicros n s).pend = true := by
  induction n with
  | zero => exact hp
  | succ n ih => exact usecBody_pend_of_pend ih

/-- Settles O42: PEND outlasts the microseconds, US counts them all, and the one rebase folds in what US holds. -/
theorem mergedRequestsLoseNoTime : Obligations.MergedRequestsLoseNoTime := by
  unfold Obligations.MergedRequestsLoseNoTime
  refine ⟨fun s => usecBody_pend_of_pend, fun n s rest hr hp him hroom hsched => ?_⟩
  obtain ⟨hrun, hrest⟩ := run_micros n hsched
  obtain ⟨-, -, him', -⟩ := afterMicros_frame n s
  have hirq := step_of_irq (nextKind_of_sched hrest) (afterMicros_pend_of_pend n hp) (him'.trans him)
  exact ⟨_, run_then_step hrun hirq, takeInterrupt_pend _, takeInterrupt_us _, nowValue_afterMicros hr hroom⟩

/-! ### A WAIT polled after n microseconds (R84) -/

/-- The deadline has come nearer by the ticks that have passed; it is due once they make up the distance. -/
theorem sub_ofNat_due_iff {d : Tick} {k : Nat} (hahead : 0 < d.toInt) (hk : k < 2 ^ 31) :
    (d - BitVec.ofNat 32 k).toInt ≤ 0 ↔ d.toInt ≤ k := by
  have hnat : (BitVec.ofNat 32 k).toNat = k := Nat.mod_eq_of_lt (hk.trans (by decide))
  have hpassed : (BitVec.ofNat 32 k).toInt = k := by rw [toInt_of_lt_half (hnat.symm ▸ hk), hnat]
  have hhigh : d.toInt < 2147483648 := BitVec.toInt_lt
  rw [toInt_sub_of_fits] <;> rw [hpassed] <;> omega

/-- The distance left after n microseconds. -/
theorem target_sub_nowValue_afterMicros {n : Nat} {s : State} (hr : s.run = true) (hroom : s.us.toNat + n < 2 ^ 31) :
    s.target - nowValue (afterMicros n s) =
      s.target - nowValue s - BitVec.ofNat 32 ((s.us.toNat + n) / 64 - s.us.toNat / 64) := by
  have hticks : (s.us.toNat + n) / 64 = s.us.toNat / 64 + ((s.us.toNat + n) / 64 - s.us.toNat / 64) := by omega
  rw [nowValue_afterMicros hr hroom, nowValue_eq_ofNat (s := s) ((Nat.le_add_right _ n).trans_lt hroom), sub_sub, add_assoc,
    ← BitVec.ofNat_add, ← hticks]

/-- Settles O33: the microseconds by `run_micros`; the poll after them by whether the distance they leave is due. -/
theorem waitCompletesOnceTheDeadlineIsReached : Obligations.WaitCompletesOnceTheDeadlineIsReached := by
  unfold Obligations.WaitCompletesOnceTheDeadlineIsReached
  intro n s rest hs hr hroom hahead hsched
  obtain ⟨hrun, hrest⟩ := run_micros n hsched
  obtain ⟨-, -, -, -, htarget, hseq⟩ := afterMicros_frame n s
  have hpoll := step_of_poll (nextKind_of_sched hrest) (hseq.trans hs)
  have hdue : ((takeTurn (afterMicros n s)).target - nowValue (takeTurn (afterMicros n s))).toInt ≤ 0 ↔
      (s.target - nowValue s).toInt ≤ ((s.us.toNat + n) / 64 - s.us.toNat / 64 : Nat) := by
    rw [takeTurn_target, nowValue_takeTurn, htarget, target_sub_nowValue_afterMicros hr hroom]
    exact sub_ofNat_due_iff hahead (by omega)
  refine ⟨_, run_then_step hrun hpoll, ?_⟩
  split
  · next hreached =>
    rw [pollBody_of_due (hdue.2 hreached)]
    exact ⟨rfl, rfl⟩
  · next hshort =>
    rw [pollBody_of_ahead (not_le.1 (mt hdue.1 hshort))]
    exact ⟨hseq.trans hs, rfl⟩

end Sys2Proof.Machine
end

section
namespace Sys2Proof.Machine

open Safety

/-! ### A WAIT in progress -/

theorem nextInstr?_of_ne_idle {s : State} (hs : s.seq ≠ .idle) : nextInstr? s = none := by
  simp [nextInstr?, nextWord?, hs]

/-- During a WAIT no command is accepted: short of `Reset`, a step is a microsecond, the rebase or a poll. -/
theorem step_cases_of_wait {s t : State} (hs : s.seq = .wait) (hr : nextKind s ≠ .reset) (h : step s = .next t) :
    (nextKind s = .usec ∧ t = usecBody (takeTurn s)) ∨
    (nextKind s = .irq ∧ s.pend = true ∧ s.im = false ∧ t = takeInterrupt (takeTurn s)) ∨
    (nextKind s = .poll ∧ t = pollBody (takeTurn s)) := by
  rcases step_cases h with ⟨hk, -⟩ | husec | hirq | ⟨-, hidle, -⟩ | ⟨hk, -, ht⟩
  · exact absurd hk hr
  · exact .inl husec
  · exact .inr (.inl hirq)
  · exact absurd (hs.symm.trans hidle) (by decide)
  · exact .inr (.inr ⟨hk, ht⟩)

/-- Only a poll ends a WAIT (R55). -/
theorem step_keeps_wait {s t : State} (hs : s.seq = .wait) (hr : nextKind s ≠ .reset) (hpoll : nextKind s ≠ .poll)
    (h : step s = .next t) : t.seq = .wait := by
  rcases step_cases_of_wait hs hr h with ⟨-, rfl⟩ | ⟨-, -, -, rfl⟩ | ⟨hk, -⟩
  · exact hs
  · exact hs
  · exact absurd hk hpoll

/-! ### A WAIT before INIT (R123) -/

/-- A WAIT before INIT on a target that reads as future at time 0. -/
structure HangsBeforeInit (s : State) : Prop where
  timer : TimerInv s
  stopped : s.run = false
  waiting : s.seq = .wait
  future : 1 ≤ s.target.toNat
  half : s.target.toNat < 2 ^ 31

/-- The stopped clock reads 0, so the target stays ahead. -/
theorem HangsBeforeInit.ahead {s : State} (hs : HangsBeforeInit s) : 0 < (s.target - nowValue s).toInt := by
  have hfuture := hs.future
  rw [nowValue_of_stopped hs.timer hs.stopped, BitVec.sub_zero, toInt_of_lt_half hs.half]
  omega

/-- Short of `Reset` the WAIT goes on in the same condition: time stands still, no request is pending, and no poll finds it due. -/
theorem HangsBeforeInit.step {s t : State} (hs : HangsBeforeInit s) (hr : nextKind s ≠ .reset) (h : step s = .next t) :
    HangsBeforeInit t ∧ t.target = s.target ∧ t.rsp = none := by
  have htimer := step_keeps_timerInv hs.timer h
  have hinit : nextInstr? s ≠ some .init := by simp [nextInstr?_of_ne_idle, hs.waiting]
  have hstopped := step_keeps_run_of_stopped hs.timer hs.stopped hinit h
  rcases step_cases_of_wait hs.waiting hr h with ⟨-, rfl⟩ | ⟨-, hp, -⟩ | ⟨-, rfl⟩
  · exact ⟨⟨htimer, hstopped, hs.waiting, hs.future, hs.half⟩, rfl, rfl⟩
  · exact absurd ((pend_of_stopped hs.timer hs.stopped).symm.trans hp) (by decide)
  · rw [pollBody_of_ahead (s := takeTurn s) hs.ahead] at htimer hstopped ⊢
    exact ⟨⟨htimer, hstopped, hs.waiting, hs.future, hs.half⟩, rfl, rfl⟩

/-- Settles O53: `HangsBeforeInit.step`. -/
theorem waitBeforeInitHangs : Obligations.WaitBeforeInitHangs := by
  unfold Obligations.WaitBeforeInitHangs
  intro s t htimer hstopped hwait hfuture hhalf h hr
  obtain ⟨ht, htarget, hrsp⟩ := HangsBeforeInit.step ⟨htimer, hstopped, hwait, hfuture, hhalf⟩ hr h
  exact ⟨ht.stopped, ht.waiting, htarget, ht.timer, hrsp⟩

theorem HangsBeforeInit.of_sameBlock {t s' : State} (h : sameBlock t s') (ht : HangsBeforeInit t) : HangsBeforeInit s' :=
  ⟨h.sameClock.timerInv ht.timer, h.run_eq.trans ht.stopped, h.seq_eq.trans ht.waiting, h.target_eq ▸ ht.future,
    h.target_eq ▸ ht.half⟩

/-! ### A WAIT inside a critical section (R134) -/

/-- A WAIT inside a critical section, with BASE and TARGET at the given values. -/
structure MaskedWait (base target : Tick) (s : State) : Prop where
  waiting : s.seq = .wait
  masked : s.im = true
  nested : s.depth ≠ 0#Config.depthWidth
  base_eq : s.base = base
  target_eq : s.target = target

/-- The WAIT goes on under the mask, which holds off the rebase, as long as no poll finds it due. -/
theorem MaskedWait.step {base target : Tick} {s t : State} (hs : MaskedWait base target s) (hr : nextKind s ≠ .reset)
    (hahead : 0 < (s.target - nowValue s).toInt) (h : step s = .next t) :
    MaskedWait base target t ∧ t.run = s.run ∧ (nextKind s ≠ .usec → t.us = s.us) := by
  rcases step_cases_of_wait hs.waiting hr h with ⟨hk, rfl⟩ | ⟨-, -, hu, -⟩ | ⟨-, rfl⟩
  · exact ⟨⟨hs.waiting, hs.masked, hs.nested, hs.base_eq, hs.target_eq⟩, rfl, fun hne => absurd hk hne⟩
  · exact absurd (hs.masked.symm.trans hu) (by decide)
  · rw [pollBody_of_ahead (s := takeTurn s) hahead]
    exact ⟨⟨hs.waiting, decide_eq_true hs.nested, hs.nested, hs.base_eq, hs.target_eq⟩, rfl, fun _ => rfl⟩

theorem MaskedWait.of_sameBlock {base target : Tick} {t s' : State} (h : sameBlock t s') (ht : MaskedWait base target t) :
    MaskedWait base target s' :=
  ⟨h.seq_eq.trans ht.waiting, h.im_eq.trans ht.masked, h.depth_eq ▸ ht.nested, h.base_eq.trans ht.base_eq,
    h.target_eq.trans ht.target_eq⟩

/-- Until US has counted 64 microseconds for each tick from BASE to the target, the target is ahead. -/
theorem ahead_of_us_short {s : State} (hreach : 64 * (s.target - s.base).toNat < 2 ^ 31)
    (hshort : s.us.toNat < 64 * (s.target - s.base).toNat) : 0 < (s.target - nowValue s).toInt := by
  have hticks : (elapsedTicks s.us).toNat = s.us.toNat / 64 := elapsedTicks_toNat (by omega)
  rw [target_sub_nowValue, toInt_sub_of_fits] <;>
    rw [toInt_of_lt_half (by omega), toInt_of_lt_half (by omega)] <;> omega

/-- Once it has, the target is reached. -/
theorem nowValue_eq_target_of_us {s : State} (hreach : 64 * (s.target - s.base).toNat < 2 ^ 31)
    (hus : s.us.toNat = 64 * (s.target - s.base).toNat) : nowValue s = s.target := by
  rw [nowValue_eq_ofNat (by rw [UsNominal, hus]; exact hreach), hus, Nat.mul_div_cancel_left _ (by decide),
    BitVec.ofNat_toNat, BitVec.setWidth_eq, add_sub_cancel]

end Sys2Proof.Machine
end

section
namespace Sys2Proof.Machine

open Safety

/-! ### Runs without end -/

section
variable {x : Nat → State} {n : Nat}

/-- What each step of a run keeps holds from its start on. -/
theorem Execution.persists (hx : Execution x) {P : State → Prop} (hr : PersistsFrom n fun m => nextKind (x m) ≠ .reset)
    (hn : P (x n)) (hstep : ∀ s t u, P s → nextKind s ≠ .reset → step s = .next t → sameBlock t u → P u) :
    PersistsFrom n fun m => P (x m) := by
  intro m hm
  induction m, hm using Nat.le_induction with
  | base => exact hn
  | succ m hm ih =>
    obtain ⟨t, ht, hblock⟩ := hx m
    exact hstep _ t _ ih (hr m hm) ht hblock

/-- If a property is kept by every step but one agent's, and that agent moves some time if the property lasts, then it moves while the
property still holds. -/
theorem reaches_move {P : State → Prop} {k : StepKind} (hn : P (x n))
    (hkeep : ∀ m, n ≤ m → P (x m) → nextKind (x m) ≠ k → P (x (m + 1)))
    (hmoves : PersistsFrom n (fun m => P (x m)) → ∃ m, n ≤ m ∧ nextKind (x m) = k) :
    ∃ m, n ≤ m ∧ (∀ j, n ≤ j → j ≤ m → P (x j)) ∧ nextKind (x m) = k := by
  by_contra hnone
  have hlasts : ∀ m, n ≤ m → ∀ j, n ≤ j → j ≤ m → P (x j) := by
    intro m hm
    induction m, hm using Nat.le_induction with
    | base => exact fun j hj hj' => Nat.le_antisymm hj' hj ▸ hn
    | succ m hm ih =>
      intro j hj hj'
      rcases Nat.le_succ_iff.1 hj' with hbefore | rfl
      · exact ih j hj hbefore
      · exact hkeep m hm (ih m hm le_rfl) fun hk => hnone ⟨m, hm, ih, hk⟩
  obtain ⟨m, hm, hk⟩ := hmoves fun m hm => hlasts m hm m hm le_rfl
  exact hnone ⟨m, hm, hlasts m hm, hk⟩

end

/-- Settles O54: by `reaches_move` a poll comes while the WAIT goes on, since only a poll ends it and fairness brings one; there the
deadline is due. -/
theorem fairPollingCompletesADueWait : Obligations.FairPollingCompletesADueWait := by
  unfold Obligations.FairPollingCompletesADueWait
  intro x n hx hfair hwait hr hdue
  obtain ⟨m, hm, hwaits, hpoll⟩ := reaches_move (P := fun s => s.seq = .wait) (k := .poll) hwait
    (fun m hm hs hpoll => by
      obtain ⟨t, ht, hblock⟩ := hx m
      exact hblock.seq_eq.trans (step_keeps_wait hs (hr m hm) hpoll ht))
    (fun hlasts => hfair.poll n hlasts n)
  obtain ⟨t, ht, hblock⟩ := hx m
  rw [step_of_poll hpoll (hwaits m hm le_rfl), pollBody_of_due (s := takeTurn (x m)) (hdue m hm hwaits)] at ht
  cases ht
  exact ⟨m, hm, hwaits, hpoll, hblock.seq_eq, hblock.rsp_eq⟩

/-- Only taking the interrupt and `Reset` clear PEND (R22). -/
theorem step_keeps_pend {s t : State} (hp : s.pend = true) (hr : nextKind s ≠ .reset) (hirq : nextKind s ≠ .irq)
    (h : step s = .next t) : t.pend = true := by
  rcases step_cases h with ⟨hk, -⟩ | ⟨-, rfl⟩ | ⟨hk, -⟩ | ⟨-, -, w, ws, -, hw⟩ | ⟨-, -, rfl⟩
  · exact absurd hk hr
  · exact usecBody_pend_of_pend hp
  · exact absurd hk hirq
  · exact (execWord_pend hw).trans hp
  · exact (pollBody_pend _).trans hp

/-- Settles O55: by `reaches_move` the `Irq` step comes while the request is pending, since nothing else clears it; the step is
`takeInterrupt`. -/
theorem fairRunsDeliverAnUnmaskedInterrupt : Obligations.FairRunsDeliverAnUnmaskedInterrupt := by
  unfold Obligations.FairRunsDeliverAnUnmaskedInterrupt
  intro x n hx hfair hpend hr hunmasked
  obtain ⟨m, hm, hpending, hirq⟩ := reaches_move (P := fun s => s.pend = true) (k := .irq) hpend
    (fun m hm hp hirq => by
      obtain ⟨t, ht, hblock⟩ := hx m
      exact hblock.pend_eq.trans (step_keeps_pend hp (hr m hm) hirq ht))
    (fun hlasts => hfair.irq n fun m hm => ⟨hlasts m hm, hunmasked m hm fun j hj _ => hlasts j hj⟩)
  obtain ⟨t, ht, hblock⟩ := hx m
  obtain rfl := step_eq_takeInterrupt hirq ht
  exact ⟨m, hm, hpending, hirq, hblock.base_eq, hblock.us_eq, hblock.pend_eq⟩

/-- Settles O57: the WAIT stays in `HangsBeforeInit`, and so in WAIT, where fairness polls it without end. -/
theorem hangingWaitIsPolledForEver : Obligations.HangingWaitIsPolledForEver := by
  unfold Obligations.HangingWaitIsPolledForEver
  intro x n hx hfair htimer hstopped hwait hfuture hhalf hr
  have hhangs : PersistsFrom n fun m => HangsBeforeInit (x m) :=
    hx.persists hr ⟨htimer, hstopped, hwait, hfuture, hhalf⟩ fun s t u hs hr h hblock =>
      .of_sameBlock hblock (hs.step hr h).1
  have hwaits : PersistsFrom n fun m => (x m).seq = .wait := fun m hm => (hhangs m hm).waiting
  exact ⟨hwaits, hfair.poll n hwaits⟩

/-- Settles O58: the mask keeps BASE where it is, from which the target is ahead whatever US holds; so the WAIT stays in `MaskedWait`,
where fairness polls it without end. -/
theorem maskedWaitBeyondReachIsPolledForEver : Obligations.MaskedWaitBeyondReachIsPolledForEver := by
  unfold Obligations.MaskedWaitBeyondReachIsPolledForEver
  intro x n hx hfair hwait hmasked hnested hbeyond hhalf hr
  have hmaskedWait : PersistsFrom n fun m => MaskedWait (x n).base (x n).target (x m) :=
    hx.persists hr ⟨hwait, hmasked, hnested, rfl, rfl⟩ fun s t u hs hr h hblock => by
      rw [← hs.base_eq, ← hs.target_eq] at hbeyond hhalf
      exact .of_sameBlock hblock (hs.step hr (ahead_of_beyond_reach hbeyond hhalf) h).1
  have hwaits : PersistsFrom n fun m => (x m).seq = .wait := fun m hm => (hmaskedWait m hm).waiting
  exact ⟨hwaits, hfair.poll n hwaits⟩

/-! ### Time brings a masked WAIT due -/

/-- A masked WAIT with the clock running and US at the given number of microseconds. -/
structure MaskedWaitAt (base target : Tick) (us : Nat) (s : State) : Prop where
  wait : MaskedWait base target s
  running : s.run = true
  us_eq : s.us.toNat = us

/-- Short of the target, a step brings the WAIT on by the microsecond that it is, and changes nothing else of it. -/
theorem MaskedWaitAt.step {base target : Tick} {us : Nat} {s t : State} (hs : MaskedWaitAt base target us s)
    (hr : nextKind s ≠ .reset) (hreach : 64 * (target - base).toNat < 2 ^ 31) (hshort : us < 64 * (target - base).toNat)
    (h : step s = .next t) : MaskedWaitAt base target (if nextKind s = .usec then us + 1 else us) t := by
  have hus := hs.us_eq
  have hnominal : UsNominal s := by
    rw [UsNominal, hus]
    omega
  rw [← hs.wait.target_eq, ← hs.wait.base_eq, ← hus] at hshort
  rw [← hs.wait.target_eq, ← hs.wait.base_eq] at hreach
  obtain ⟨hwait, hrun, hus_kept⟩ := hs.wait.step hr (ahead_of_us_short hreach hshort) h
  refine ⟨hwait, hrun.trans hs.running, ?_⟩
  split
  · next hk =>
    rw [step_of_usec hk] at h
    cases h
    rw [usecBody_us_toNat (s := takeTurn s) hnominal, takeTurn_us, takeTurn_run, if_pos hs.running, hus]
  · next hk => rw [hus_kept hk, hus]

theorem MaskedWaitAt.of_sameBlock {base target : Tick} {us : Nat} {t s' : State} (h : sameBlock t s')
    (ht : MaskedWaitAt base target us t) : MaskedWaitAt base target us s' :=
  ⟨.of_sameBlock h ht.wait, h.run_eq.trans ht.running, h.us_eq ▸ ht.us_eq⟩

/-- By induction on the microseconds still to pass: fairness brings the next one, and the WAIT lasts until then. -/
theorem maskedWait_comes_due {x : Nat → State} (hx : Execution x) (htime : Recurs fun m => nextKind (x m) = .usec)
    {base target : Tick} (hreach : 64 * (target - base).toNat < 2 ^ 31) (left : Nat) :
    ∀ n us, PersistsFrom n (fun m => nextKind (x m) ≠ .reset) → MaskedWaitAt base target us (x n) →
      us + left = 64 * (target - base).toNat →
      ∃ m, n ≤ m ∧ (∀ j, n ≤ j → j ≤ m → MaskedWait base target (x j)) ∧ (x m).us.toNat = 64 * (target - base).toNat := by
  induction left with
  | zero =>
    exact fun n us _ hn hus => ⟨n, le_rfl, fun j hj hj' => Nat.le_antisymm hj' hj ▸ hn.wait, hn.us_eq.trans hus⟩
  | succ left ih =>
    intro n us hr hn hus
    have hstep : ∀ m, n ≤ m → MaskedWaitAt base target us (x m) →
        MaskedWaitAt base target (if nextKind (x m) = .usec then us + 1 else us) (x (m + 1)) := fun m hm hs => by
      obtain ⟨t, ht, hblock⟩ := hx m
      exact .of_sameBlock hblock (hs.step (hr m hm) hreach (by omega) ht)
    obtain ⟨m, hm, hlasts, husec⟩ := reaches_move (P := MaskedWaitAt base target us) (k := .usec) hn
      (fun m hm hs hk => by simpa only [if_neg hk] using hstep m hm hs) (fun _ => htime n)
    have hnext := hstep m hm (hlasts m hm le_rfl)
    rw [if_pos husec] at hnext
    obtain ⟨m', hm', hlasts', hdue⟩ := ih (m + 1) (us + 1) (fun j hj => hr j (by omega)) hnext (by omega)
    refine ⟨m', by omega, fun j hj hj' => ?_, hdue⟩
    rcases Nat.lt_or_ge m j with hafter | hbefore
    · exact hlasts' j hafter hj'
    · exact (hlasts j hj hbefore).wait

/-- Counted from BASE, the target lies as far as US's whole ticks and the distance ahead together. -/
theorem target_sub_base_toNat {s : State} (hroom : s.us.toNat + 64 * (s.target - nowValue s).toNat < 2 ^ 31) :
    (s.target - s.base).toNat = s.us.toNat / 64 + (s.target - nowValue s).toNat := by
  have hticks : (elapsedTicks s.us).toNat = s.us.toNat / 64 := elapsedTicks_toNat (by omega)
  have hsplit : s.target - s.base = elapsedTicks s.us + (s.target - nowValue s) := by
    rw [target_sub_nowValue, add_sub_cancel]
  rw [hsplit, BitVec.toNat_add, hticks]
  exact Nat.mod_eq_of_lt (by rw [Config.two_pow_tickWidth]; omega)

/-- Settles O56: US has room for the microseconds up to the target, and `maskedWait_comes_due` brings them. -/
theorem fairTimeBringsAMaskedWaitDue : Obligations.FairTimeBringsAMaskedWaitDue := by
  unfold Obligations.FairTimeBringsAMaskedWaitDue
  intro x n hx hfair hwait hrun hmasked hnested hahead hroom hr
  have hdistance := target_sub_base_toNat hroom
  have hpositive : (x n).target - nowValue (x n) ≠ 0#32 := fun hzero => by
    rw [hzero] at hahead
    exact absurd hahead (by decide)
  rw [ne_eq, ← BitVec.toNat_inj, BitVec.toNat_ofNat, Nat.zero_mod] at hpositive
  have hreach : 64 * ((x n).target - (x n).base).toNat < 2 ^ 31 := by omega
  obtain ⟨m, hm, hlasts, hus⟩ := maskedWait_comes_due hx hfair.time hreach
    (64 * ((x n).target - (x n).base).toNat - (x n).us.toNat) n (x n).us.toNat hr
    ⟨⟨hwait, hmasked, hnested, rfl, rfl⟩, hrun, rfl⟩ (by omega)
  have hthen := hlasts m hm le_rfl
  rw [← hthen.base_eq, ← hthen.target_eq] at hreach hus
  exact ⟨m, hm, fun j hj hj' => (hlasts j hj hj').waiting, hthen.target_eq, nowValue_eq_target_of_us hreach hus⟩

end Sys2Proof.Machine
end
